-- ==== Sys2Proof/Word.lean ====
section
/-! DEFINITION. The word types of the DHT22 decoder core: the widths of its registers and the level
of its one line (spec `10_state.md` R20, `00_scope.md` R10 and R13). -/

namespace Sys2Proof

/-- A frame byte, R20 and R27: 8 bits. -/
abbrev Byte := BitVec 8

/-- The tick counter `TMR`, R25: 17 bits, unsigned. -/
abbrev TickCount := BitVec 17

/-- The bit counter `BITCNT`, R26: 6 bits, unsigned. -/
abbrev BitCount := BitVec 6

/-- A 16-bit number of tenths: `HUM` (unsigned, R28) and `TEMP` (two's complement, R29). -/
abbrev Tenths := BitVec 16

/-- A level of the line, R13: `false` is 0 (low), `true` is 1 (high). The one-bit ports and registers
`rst`, `start`, `line_in`, `LINE_OE`, `LINE_OUT` are written the same way. -/
abbrev Level := Bool

/-- The number 0 or 1 that a one-bit value stands for (R11, R13). -/
def bitNat (b : Bool) : Nat := if b then 1 else 0

end Sys2Proof
end

