-- ==== Sys2Proof/Config.lean ====
section
/-! DEFINITION. The implementation parameters of R9 as one configuration record, the inputs of a tick
(R21, R22), and the two free values: what the environment presents at a tick for which no input is
listed, and the caller's minimum inter-read interval (log entries 3 and 5). -/

namespace Sys2Proof

/-- The parameters of R9, as the configuration record that rule asks for. They are constants of the
build (R33): no step changes them. `T_ONE_MAX` is not a field of its own because R9 defines it as
`T_TIMEOUT` (`Params.tOneMax`). -/
structure Params where
  /-- `T_WAKE`: ticks the line is driven low. -/
  tWake : Nat
  /-- `T_RELEASE`: ticks the line is driven high; any value 20 to 40 conforms. -/
  tRelease : Nat
  /-- `T_ACK`: samples of each acknowledgment window. -/
  tAck : Nat
  /-- `T_TIMEOUT`: samples of each wait of the sampler. -/
  tTimeout : Nat
  /-- `T_ZERO_MIN`: shortest pulse that is a logical 0. -/
  tZeroMin : Nat
  /-- `T_ZERO_MAX`: longest pulse that is a logical 0. -/
  tZeroMax : Nat
  /-- `T_ONE_MIN`: shortest pulse that is a logical 1. -/
  tOneMin : Nat
  /-- `T_GAP`: ticks held after each successful bit. -/
  tGap : Nat
  /-- `N_BITS`: pulses sampled in one attempt. -/
  nBits : Nat
  deriving DecidableEq, Repr

/-- The "value" column of R9, with `T_RELEASE` = 30 (the default of `92_eei_decisions.md` D7). -/
def Params.standard : Params where
  tWake := 18000
  tRelease := 30
  tAck := 80
  tTimeout := 100000
  tZeroMin := 26
  tZeroMax := 28
  tOneMin := 70
  tGap := 50
  nBits := 40

/-- `T_ONE_MAX` = `T_TIMEOUT` (R9). -/
def Params.tOneMax (c : Params) : Nat := c.tTimeout

/-- `N_BYTES` (R9): the length of a frame in bytes. -/
def Params.nBytes : Nat := 5

/-- `TICK` (R9, R8): the physical length of one tick in microseconds. -/
def Params.tickMicroseconds : Nat := 1

/-- A conforming core has R9's values and a release pulse of 20 to 40 ticks, both included. -/
abbrev Params.Conforming (c : Params) : Prop :=
  c = { Params.standard with tRelease := c.tRelease } ∧ 20 ≤ c.tRelease ∧ c.tRelease ≤ 40

/-- The inputs sampled at one tick (R21, R22). The tick itself is the port `clk`. -/
structure Inputs where
  /-- Synchronous reset, active high. -/
  rst : Bool
  /-- The caller's request `decode()`. -/
  start : Bool
  /-- The sensed level of the line, the value `readLevel` returns. -/
  lineIn : Level
  deriving DecidableEq, Repr, Inhabited

/-- A tick at which the caller asks for nothing and the line is at level `v`. -/
def Inputs.quiet (v : Level) : Inputs := { rst := false, start := false, lineIn := v }

/-- FREE VALUE (log entry 3). What the environment presents at a tick for which the state lists no
input: an oracle (R6), nothing constrains it. -/
opaque Config.freeInput : Nat → Inputs

/-- FREE VALUE (log entry 5). `T_MIN_INTERVAL` of R9 and R272: open, a parameter of the caller, in
ticks. The core does not use it. -/
opaque Config.tMinInterval : Nat

end Sys2Proof
end

