-- ==== Sys2Proof/Syntax.lean ====
section
/-! DEFINITION. The closed types of R13 (R81 (f) asks for closed types) and the operations of the core:
one constructor of `Instr` for each row of `spec/opcode_table.json`. -/

namespace Sys2Proof

/-- The twelve values of `PH` (R74). There is no other member: codes 12 to 15 cannot be written down. -/
inductive Phase where
  | idle | hsLow | hsRel | hsAck1 | hsAck2
  | smWaitLow | smWaitHigh | smMeasure | smGap
  | validate | done | failed
  deriving DecidableEq, Repr

/-- EM's six states (R13, R75). -/
inductive DocState where
  | idle | handshaking | sampling | validating | done | failed
  deriving DecidableEq, Repr

/-- The five failure kinds (R76, R230). `ERR` = `None` is `Option.none` in the register. -/
inductive FailKind where
  | noResponse | protocolViolation | timeout | measurement | checksumError
  deriving DecidableEq, Repr

/-- The five line operations (R77). -/
inductive LineOp where
  | setdirIn | setdirOut | writeLow | writeHigh | readLevel
  deriving DecidableEq, Repr

/-- The direction of the line (R13). -/
inductive Dir where
  | output | input
  deriving DecidableEq, Repr

/-- The classification of one Bit Sample (R13, R127). -/
inductive SampleOutcome where
  | zero | one | error | timedOut
  deriving DecidableEq, Repr

/-- The operations of the core (R80). -/
inductive Instr where
  -- format CMD (R78)
  /-- `RESET`, encoding `1s`: the bit `s` is the input `start`, which is ignored. -/
  | reset (start : Bool)
  | decode
  | nop
  -- format PHASE (R74)
  | idle
  | hsLow
  | hsRel
  | hsAck1
  | hsAck2
  | smWaitLow
  | smWaitHigh
  | smMeasure
  | smGap
  | validate
  | done
  | failed
  -- format PULSE (R73): a high pulse of `d` ticks
  | short (d : Nat)
  | zero (d : Nat)
  | ambiguous (d : Nat)
  | one (d : Nat)
  | overlong (d : Nat)
  -- format FRAME (R71): humidity, temperature sign, temperature magnitude, checksum
  | frame (h : BitVec 16) (s : Bool) (m : BitVec 15) (c : Byte)
  -- functions, with no encoding of their own
  | classify
  | shiftIn (b : Bool)
  | checksum
  | convHum
  | convTemp
  -- format LINEOP (R77)
  | setdirIn
  | setdirOut
  | writeLow
  | writeHigh
  | readLevel
  -- format FAIL (R76): `raise Fail(kind)` with its operand, and its five values
  | fail (k : FailKind)
  | failNoResponse
  | failProtocolViolation
  | failTimeout
  | failMeasurement
  | failChecksumError
  deriving DecidableEq, Repr

end Sys2Proof
end

