-- ==== Sys2Proof/WellFormed.lean ====
section
/-! DEFINITION. The operand checks of the operations: the duration of a pulse lies in the range that R73
gives its symbol. Every other operand is of a closed type, so no other check is needed. A frame whose
checksum does not hold is a legal transmission (R81 (c)): it is executed, and fails. -/

namespace Sys2Proof

/-- R73: the duration a symbol stands for lies in the symbol's own range (R9 gives the bounds). -/
def Instr.wellFormed : Instr → Bool
  | .short d => decide (1 ≤ d ∧ d < Params.standard.tZeroMin)
  | .zero d => decide (Params.standard.tZeroMin ≤ d ∧ d ≤ Params.standard.tZeroMax)
  | .ambiguous d => decide (Params.standard.tZeroMax < d ∧ d < Params.standard.tOneMin)
  | .one d => decide (Params.standard.tOneMin ≤ d ∧ d ≤ Params.standard.tOneMax)
  | .overlong d => decide (Params.standard.tTimeout < d)
  | .reset _ => true
  | .decode => true
  | .nop => true
  | .idle => true
  | .hsLow => true
  | .hsRel => true
  | .hsAck1 => true
  | .hsAck2 => true
  | .smWaitLow => true
  | .smWaitHigh => true
  | .smMeasure => true
  | .smGap => true
  | .validate => true
  | .done => true
  | .failed => true
  | .frame _ _ _ _ => true
  | .classify => true
  | .shiftIn _ => true
  | .checksum => true
  | .convHum => true
  | .convTemp => true
  | .setdirIn => true
  | .setdirOut => true
  | .writeLow => true
  | .writeHigh => true
  | .readLevel => true
  | .fail _ => true
  | .failNoResponse => true
  | .failProtocolViolation => true
  | .failTimeout => true
  | .failMeasurement => true
  | .failChecksumError => true

end Sys2Proof
end

