-- ==== Sys2Proof/Decode.lean ====
section
/-! DEFINITION. The six formats of R70, the codes of R74 to R78, the decoder and, after it, the encoder.

A word of one format says nothing about another: R77 calls the line-operation code "a naming device",
`PHASE` is a register, `CMD` a pair of pins, `PULSE` a duration, and the same number is a word of several
formats. So the decoder takes the format with the word (log entry 8). It is total: every number of every
format is an operation or is rejected by name. -/

namespace Sys2Proof

/-- The six formats of R70. -/
inductive Format where
  | frame | pulse | phase | fail | lineop | cmd
  deriving DecidableEq, Repr

/-- Why a word is no operation. -/
inductive DecodeError where
  /-- `PHASE` codes 12 to 15 (R74, R81 (f)). -/
  | unusedPhase
  /-- `FAIL` code 0, which is `None` and not a failure (R76). -/
  | noFailure
  /-- `FAIL` codes 6 and 7 (R76, R81 (f)). -/
  | unusedFail
  /-- `LINEOP` codes 5 to 7 (R77, R81 (f)). -/
  | unusedLineOp
  /-- A pulse of no tick: R73 has `e` ≥ 1. -/
  | emptyPulse
  /-- The number has more bits than the format. -/
  | tooWide
  deriving DecidableEq, Repr

/-- The field of bits `hi` down to `lo` of `w`, as an unsigned number (R11). -/
def bitField (w hi lo : Nat) : Nat := w / 2 ^ lo % 2 ^ (hi + 1 - lo)

/-! ### The codes -/

/-- R74, code to phase. -/
def Phase.ofCode : Nat → Option Phase
  | 0 => some .idle
  | 1 => some .hsLow
  | 2 => some .hsRel
  | 3 => some .hsAck1
  | 4 => some .hsAck2
  | 5 => some .smWaitLow
  | 6 => some .smWaitHigh
  | 7 => some .smMeasure
  | 8 => some .smGap
  | 9 => some .validate
  | 10 => some .done
  | 11 => some .failed
  | _ => none

/-- R74, phase to code: the four bits of the register `PH`. -/
def Phase.code : Phase → Nat
  | .idle => 0b0000
  | .hsLow => 0b0001
  | .hsRel => 0b0010
  | .hsAck1 => 0b0011
  | .hsAck2 => 0b0100
  | .smWaitLow => 0b0101
  | .smWaitHigh => 0b0110
  | .smMeasure => 0b0111
  | .smGap => 0b1000
  | .validate => 0b1001
  | .done => 0b1010
  | .failed => 0b1011

/-- R76, code to failure kind. -/
def FailKind.ofCode : Nat → Option FailKind
  | 1 => some .noResponse
  | 2 => some .protocolViolation
  | 3 => some .timeout
  | 4 => some .measurement
  | 5 => some .checksumError
  | _ => none

/-- R76, failure kind to code. -/
def FailKind.code : FailKind → Nat
  | .noResponse => 0b001
  | .protocolViolation => 0b010
  | .timeout => 0b011
  | .measurement => 0b100
  | .checksumError => 0b101

/-- R77, code to line operation. -/
def LineOp.ofCode : Nat → Option LineOp
  | 0 => some .setdirIn
  | 1 => some .setdirOut
  | 2 => some .writeLow
  | 3 => some .writeHigh
  | 4 => some .readLevel
  | _ => none

/-- R77, line operation to code. -/
def LineOp.code : LineOp → Nat
  | .setdirIn => 0b000
  | .setdirOut => 0b001
  | .writeLow => 0b010
  | .writeHigh => 0b011
  | .readLevel => 0b100

/-! ### From a code to its operation -/

/-- The operation that a phase selects (R74: `PH` "selects the operation the core executes at a tick"). -/
def Phase.instr : Phase → Instr
  | .idle => .idle
  | .hsLow => .hsLow
  | .hsRel => .hsRel
  | .hsAck1 => .hsAck1
  | .hsAck2 => .hsAck2
  | .smWaitLow => .smWaitLow
  | .smWaitHigh => .smWaitHigh
  | .smMeasure => .smMeasure
  | .smGap => .smGap
  | .validate => .validate
  | .done => .done
  | .failed => .failed

/-- The operation `raise Fail(kind)` of one kind: the row of the table that the code of R76 stands for. -/
def FailKind.instr : FailKind → Instr
  | .noResponse => .failNoResponse
  | .protocolViolation => .failProtocolViolation
  | .timeout => .failTimeout
  | .measurement => .failMeasurement
  | .checksumError => .failChecksumError

/-- The operation that a line-operation code names (R77). -/
def LineOp.instr : LineOp → Instr
  | .setdirIn => .setdirIn
  | .setdirOut => .setdirOut
  | .writeLow => .writeLow
  | .writeHigh => .writeHigh
  | .readLevel => .readLevel

/-- The command that the inputs `rst` and `start` of a tick make (R78). -/
def command (rst start : Bool) : Instr :=
  if rst then .reset start else if start then .decode else .nop

/-- The symbol that a duration of `d` ≥ 1 ticks is (R73). -/
def pulseSymbol (d : Nat) : Instr :=
  if d < Params.standard.tZeroMin then .short d
  else if d ≤ Params.standard.tZeroMax then .zero d
  else if d < Params.standard.tOneMin then .ambiguous d
  else if d ≤ Params.standard.tOneMax then .one d
  else .overlong d

/-- The frame that a 40-bit word is: humidity 39:24, sign 23, magnitude 22:8, checksum 7:0 (R71). -/
def frameOfWord (w : Nat) : Instr :=
  .frame (BitVec.ofNat 16 (bitField w 39 24)) (bitField w 23 23 == 1) (BitVec.ofNat 15 (bitField w 22 8))
    (BitVec.ofNat 8 (bitField w 7 0))

/-! ### The decoder -/

/-- The width in bits of a format's words (R70). A `PULSE` is a duration, "1..100000 ticks" and `OVERLONG`
beyond, so it has no width that bounds it. -/
def Format.width : Format → Option Nat
  | .frame => some 40
  | .pulse => none
  | .phase => some 4
  | .fail => some 3
  | .lineop => some 3
  | .cmd => some 2

/-- The operation that the word `w` of a format is, with no check of `w`'s width. -/
def decodeFits : Format → Nat → Except DecodeError Instr
  | .frame, w => .ok (frameOfWord w)
  | .pulse, w => if w = 0 then .error .emptyPulse else .ok (pulseSymbol w)
  | .phase, w =>
    match Phase.ofCode w with
    | some p => .ok p.instr
    | none => .error .unusedPhase
  | .fail, w =>
    match FailKind.ofCode w with
    | some k => .ok k.instr
    | none => .error (if w = 0 then .noFailure else .unusedFail)
  | .lineop, w =>
    match LineOp.ofCode w with
    | some o => .ok o.instr
    | none => .error .unusedLineOp
  | .cmd, w => .ok (command (bitField w 1 1 == 1) (bitField w 0 0 == 1))

/-- THE DECODER: the operation that the word `w` of format `fmt` is, or the name of what is wrong. -/
def decode (fmt : Format) (w : Nat) : Except DecodeError Instr :=
  match fmt.width with
  | some n => if w < 2 ^ n then decodeFits fmt w else .error .tooWide
  | none => decodeFits fmt w

/-- The format a word of `nbits` bits is read in, where only the width is known (log entry 8). The
widths of the formats themselves come first; a width in whole bytes is the width of the format rounded
up. One byte is read as a `PHASE`: that code "selects the operation the core executes at a tick" (R70). -/
def formatOfWidth (nbits : Nat) : Option Format :=
  if nbits = 2 then some .cmd
  else if nbits = 3 then some .lineop
  else if nbits = 4 ∨ nbits = 8 then some .phase
  else if nbits = 17 ∨ nbits = 24 then some .pulse
  else if nbits = 40 then some .frame
  else none

/-- The operation the decoder reads from an opcode-table word of `nbits` bits. -/
def decodeTableWord (nbits w : Nat) : Option Instr :=
  match formatOfWidth nbits with
  | some fmt => (decode fmt w).toOption
  | none => none

/-! ### The encoder -/

/-- A word with its format. -/
structure Code where
  fmt : Format
  word : Nat
  deriving DecidableEq, Repr

/-- The two bits `rst ++ start` (R78). -/
def cmdWord (rst start : Bool) : Nat := 2 * bitNat rst + bitNat start

/-- The 40-bit word of a frame (R71): the fields one after another, the humidity highest. -/
def frameWord (h : BitVec 16) (s : Bool) (m : BitVec 15) (c : Byte) : Nat :=
  h.toNat * 2 ^ 24 + bitNat s * 2 ^ 23 + m.toNat * 2 ^ 8 + c.toNat

/-- THE ENCODER: the word of an operation. The five functions have "none of its own" (R151, R153 and the
table's `FUNC` rows, whose pattern is the code of the phase that invokes them: `invokedIn`). -/
def encode : Instr → Option Code
  | .reset start => some ⟨.cmd, cmdWord true start⟩
  | .decode => some ⟨.cmd, cmdWord false true⟩
  | .nop => some ⟨.cmd, cmdWord false false⟩
  | .idle => some ⟨.phase, Phase.code .idle⟩
  | .hsLow => some ⟨.phase, Phase.code .hsLow⟩
  | .hsRel => some ⟨.phase, Phase.code .hsRel⟩
  | .hsAck1 => some ⟨.phase, Phase.code .hsAck1⟩
  | .hsAck2 => some ⟨.phase, Phase.code .hsAck2⟩
  | .smWaitLow => some ⟨.phase, Phase.code .smWaitLow⟩
  | .smWaitHigh => some ⟨.phase, Phase.code .smWaitHigh⟩
  | .smMeasure => some ⟨.phase, Phase.code .smMeasure⟩
  | .smGap => some ⟨.phase, Phase.code .smGap⟩
  | .validate => some ⟨.phase, Phase.code .validate⟩
  | .done => some ⟨.phase, Phase.code .done⟩
  | .failed => some ⟨.phase, Phase.code .failed⟩
  | .short d => some ⟨.pulse, d⟩
  | .zero d => some ⟨.pulse, d⟩
  | .ambiguous d => some ⟨.pulse, d⟩
  | .one d => some ⟨.pulse, d⟩
  | .overlong d => some ⟨.pulse, d⟩
  | .frame h s m c => some ⟨.frame, frameWord h s m c⟩
  | .classify => none
  | .shiftIn _ => none
  | .checksum => none
  | .convHum => none
  | .convTemp => none
  | .setdirIn => some ⟨.lineop, LineOp.code .setdirIn⟩
  | .setdirOut => some ⟨.lineop, LineOp.code .setdirOut⟩
  | .writeLow => some ⟨.lineop, LineOp.code .writeLow⟩
  | .writeHigh => some ⟨.lineop, LineOp.code .writeHigh⟩
  | .readLevel => some ⟨.lineop, LineOp.code .readLevel⟩
  | .fail k => some ⟨.fail, k.code⟩
  | .failNoResponse => some ⟨.fail, FailKind.code .noResponse⟩
  | .failProtocolViolation => some ⟨.fail, FailKind.code .protocolViolation⟩
  | .failTimeout => some ⟨.fail, FailKind.code .timeout⟩
  | .failMeasurement => some ⟨.fail, FailKind.code .measurement⟩
  | .failChecksumError => some ⟨.fail, FailKind.code .checksumError⟩

/-- The phase in which a function is invoked (the table's `FUNC` rows: pattern 0111 is `SM_MEASURE`, 1001
is `VALIDATE`). -/
def invokedIn : Instr → Option Phase
  | .classify => some .smMeasure
  | .shiftIn _ => some .smMeasure
  | .checksum => some .validate
  | .convHum => some .validate
  | .convTemp => some .validate
  | _ => none

/-- The one spelling of an operation that the decoder answers with: the row `FAIL kkk` with its operand is
the row of that kind (the table gives both the same word, log entry 9). -/
def Instr.canonical : Instr → Instr
  | .fail k => k.instr
  | i => i

end Sys2Proof
end

