-- ==== Sys2Proof/Machine/State.lean ====
section
/-! DEFINITION. The state of the core: the ten registers of R20, the configuration record of R9, and the
model's own fields through which the environment reaches it (R6). Plain data. -/

namespace Sys2Proof.Machine

/-- The frame registers `F[0]` to `F[4]` (R27, R50): the five locations of the space `FRAME`. -/
structure Frame where
  /-- humidity-high -/
  f0 : Byte
  /-- humidity-low -/
  f1 : Byte
  /-- temperature-high, sign in bit 7 -/
  f2 : Byte
  /-- temperature-low -/
  f3 : Byte
  /-- checksum -/
  f4 : Byte
  deriving DecidableEq, Repr

/-- A frame of five zero bytes: what R183, R186 and R260 write. -/
def Frame.zero : Frame := { f0 := 0, f1 := 0, f2 := 0, f3 := 0, f4 := 0 }

/-- The value that an operation executed on its own hands back (log entry 7). The three operations that
only compute a value (`READ_LEVEL` R214, `CLASSIFY` R126, `CHECKSUM` R153) have no register for it: it
"exists only inside the tick" (R38 (b)). -/
inductive OpValue where
  | nothing
  | level (v : Level)
  | outcome (o : SampleOutcome)
  | valid (b : Bool)
  deriving DecidableEq, Repr

/-- The reasons the machine stops with a fault. -/
inductive Fault where
  /-- Raised by `SHIFT_IN` (and by what performs it: `SM_MEASURE`, `ZERO`, `ONE`) when `BITCNT` ≥ 40, so
  that `F[BITCNT div 8]` is no location of the space `FRAME` (R50: five locations; R151: `BITCNT` ≤ 39
  there). Safe: no reachable state raises it (R40 (d)). -/
  | frameByteAbsent
  deriving DecidableEq, Repr

/-- The reasons an operation has no meaning in a state. -/
inductive Refusal where
  /-- An arm of `exec` that has no meaning yet. No arm raises it now. Safe. -/
  | notModelled (mnemonic : String)
  /-- Raised by `DECODE` while busy (R184, U1: "undefined"; "a model must treat it as a refusal"). Safe. -/
  | startWhileBusy
  /-- Raised by `WRITE_LOW` and `WRITE_HIGH` while `LINE_OE` = 0 (R216, U2: "only valid in Output mode";
  treatment "refuse"). Safe: no reachable tick raises it. -/
  | writeInInputMode
  /-- Raised by `READ_LEVEL` and by the phases that read the line while `LINE_OE` = 1 (R216, U2: "only
  valid in Input mode"; treatment "refuse"). Safe: no reachable tick raises it. -/
  | readInOutputMode
  deriving DecidableEq, Repr

/-- The state. -/
structure State where
  /-- `PH`, the phase register (R24). -/
  ph : Phase
  /-- `TMR`, the tick counter of the phase (R25). -/
  tmr : TickCount
  /-- `BITCNT`, the bits shifted into the frame (R26). -/
  bitcnt : BitCount
  /-- `F[0..4]`, the frame (R27). -/
  f : Frame
  /-- `ERR`, the failure kind of the last attempt, or `None` (R30). -/
  err : Option FailKind
  /-- `HUM`, humidity in tenths of a percent, unsigned (R28). -/
  hum : Tenths
  /-- `TEMP`, temperature in tenths of a degree, two's complement (R29). -/
  temp : Tenths
  /-- `LINE_OE`, 1 is `Output` (R31). -/
  lineOe : Bool
  /-- `LINE_OUT`, the level driven while the direction is `Output` (R31). -/
  lineOut : Level
  /-- The configuration record (R9, R33): not a register; nothing changes it. -/
  cfg : Params
  /-- MODEL'S OWN: the inputs the environment will present at the coming ticks, the next one first
  (log entry 3). Past its end the free value `Config.freeInput` supplies them. -/
  inputs : List Inputs
  /-- MODEL'S OWN: the number of ticks taken, the argument of `Config.freeInput` (log entry 3). -/
  tick : Nat
  /-- MODEL'S OWN: the value handed back by an operation executed on its own (log entry 7). -/
  value : OpValue
  deriving DecidableEq, Repr

/-- The state right after reset: the table of R39. The configuration has R9's values; the environment has
listed no input. -/
def State.reset : State where
  ph := .idle
  tmr := 0
  bitcnt := 0
  f := Frame.zero
  err := none
  hum := 0
  temp := 0
  lineOe := false
  lineOut := true
  cfg := Params.standard
  inputs := []
  tick := 0
  value := .nothing

end Sys2Proof.Machine
end

