-- ==== Sys2Proof/Machine/Operands.lean ====
section
/-! DEFINITION. The operands of the operations: the inputs of a tick, the duration of a pulse, the bytes,
bits and fields of a frame. -/

namespace Sys2Proof.Machine

/-! ### The inputs of a tick (R21, R22) -/

/-- The inputs at the `k`-th tick from now, `k` = 0 the coming one: the listed ones, then the free value. -/
def upcoming (s : State) (k : Nat) : Inputs :=
  match s.inputs[k]? with
  | some i => i
  | none => Config.freeInput (s.tick + k)

/-- The inputs sampled at the coming tick (R8, R22). -/
def currentInput (s : State) : Inputs := upcoming s 0

/-- The level `LineRead()` returns: `line_in` sampled at this tick (R12, R214). -/
def lineIn (s : State) : Level := (currentInput s).lineIn

/-- `e` = `TMR + 1`: the elapsed ticks of the sample taken at this tick; in `SM_MEASURE`, the ticks since
the rise (R120, R123, R124). The sum is on unbounded integers (R11). -/
def elapsed (s : State) : Nat := s.tmr.toNat + 1

/-! ### The frame -/

/-- Read one byte of the space `FRAME`; there are five locations (R50). -/
def Frame.get? (f : Frame) : Nat → Option Byte
  | 0 => some f.f0
  | 1 => some f.f1
  | 2 => some f.f2
  | 3 => some f.f3
  | 4 => some f.f4
  | _ => none

/-- Write one byte of the space `FRAME`; a write past the five locations writes nothing (`shiftBit`
faults before it gets here). -/
def Frame.set (f : Frame) (i : Nat) (v : Byte) : Frame :=
  match i with
  | 0 => { f with f0 := v }
  | 1 => { f with f1 := v }
  | 2 => { f with f2 := v }
  | 3 => { f with f3 := v }
  | 4 => { f with f4 := v }
  | _ => f

/-- The byte a bit goes into: `BITCNT div 8` (R54, R151). -/
def frameIndex (s : State) : Nat := s.bitcnt.toNat / 8

/-- A frame byte with one more bit: `((F << 1) | b) mod 256` (R151). -/
def shiftByte (v : Byte) (b : Bool) : Byte := (v <<< 1) ||| BitVec.ofNat 8 (bitNat b)

/-- The frame as one 40-bit word, `F[0]` the most significant byte (R53). -/
def Frame.word (f : Frame) : BitVec 40 := f.f0 ++ f.f1 ++ f.f2 ++ f.f3 ++ f.f4

/-- The `k`-th Bit Sample of a frame, `k` = 0..39: bit `39 − k` of its word, which is bit
`7 − (k mod 8)` of byte `k div 8` (R52, R53). -/
def Frame.bit (f : Frame) (k : Nat) : Bool := f.word.getLsbD (39 - k)

/-- The forty bits of a frame in the order of the line (R52). -/
def Frame.bits (f : Frame) : List Bool := (List.range 40).map f.bit

/-- The frame that holds the four fields of a transmission (R71). -/
def Frame.ofFields (h : BitVec 16) (s : Bool) (m : BitVec 15) (c : Byte) : Frame where
  f0 := h.extractLsb' 8 8
  f1 := h.extractLsb' 0 8
  f2 := BitVec.ofBool s ++ m.extractLsb' 8 7
  f3 := m.extractLsb' 0 8
  f4 := c

/-- `hum = (F[0] << 8) | F[1]` (R72). -/
def Frame.humidity (f : Frame) : BitVec 16 := (f.f0.setWidth 16 <<< 8) ||| f.f1.setWidth 16

/-- `mag = ((F[2] & 0x7F) << 8) | F[3]`, 15 bits (R72). -/
def Frame.magnitude (f : Frame) : BitVec 15 :=
  ((f.f2 &&& 0x7F#8).setWidth 15 <<< 8) ||| f.f3.setWidth 15

/-- The temperature sign, `F[2][7]` (R72): `true` is negative. -/
def Frame.negative (f : Frame) : Bool := f.f2.getLsbD 7

end Sys2Proof.Machine
end

