-- ==== Sys2Proof/Machine/Flags.lean ====
section
/-! DEFINITION. The status flags (R32), the output ports (R21), EM's states (R75) and the result the caller
sees (R34). All are functions of the registers alone. The core has no condition codes (R32). -/

namespace Sys2Proof.Machine

/-- `PH` = `IDLE` (R32). -/
def idle (s : State) : Bool := s.ph == .idle

/-- The output `done` (R21). -/
def done (s : State) : Bool := s.ph == .done

/-- The output `failed` (R21). -/
def failed (s : State) : Bool := s.ph == .failed

/-- The output `busy`: `PH` is none of `IDLE`, `DONE`, `FAILED` (R21). -/
def busy (s : State) : Bool := !(idle s || done s || failed s)

/-- The register `ERR` as the three bits of R76: `None` is 0. -/
def errCode : Option FailKind → BitVec 3
  | none => 0
  | some k => BitVec.ofNat 3 k.code

/-- The output ports (R21). -/
structure Outputs where
  lineOe : Bool
  lineOut : Level
  busy : Bool
  done : Bool
  failed : Bool
  err : BitVec 3
  humX10 : BitVec 16
  tempX10 : BitVec 16
  deriving DecidableEq, Repr

/-- What the output ports show (R21, R79): "Every output is a function of registers alone". -/
def outputs (s : State) : Outputs where
  lineOe := s.lineOe
  lineOut := s.lineOut
  busy := busy s
  done := done s
  failed := failed s
  err := errCode s.err
  humX10 := s.hum
  tempX10 := s.temp

/-- `DocState(PH)` (R75). -/
def docState : Phase → DocState
  | .idle => .idle
  | .hsLow => .handshaking
  | .hsRel => .handshaking
  | .hsAck1 => .handshaking
  | .hsAck2 => .handshaking
  | .smWaitLow => .sampling
  | .smWaitHigh => .sampling
  | .smMeasure => .sampling
  | .smGap => .sampling
  | .validate => .validating
  | .done => .done
  | .failed => .failed

/-- The 3-bit code of EM's state (R75); neither a register nor a port. -/
def docStateCode : DocState → Nat
  | .idle => 0
  | .handshaking => 1
  | .sampling => 2
  | .validating => 3
  | .done => 4
  | .failed => 5

/-- A reading: exact rationals, each a whole number of tenths, temperature first (R13, R34). -/
structure Reading where
  temperature : ℚ
  humidity : ℚ
  deriving DecidableEq, Repr

/-- What the caller sees (R13). -/
inductive Result where
  | pending
  | done (r : Reading)
  | failed (k : FailKind)
  deriving DecidableEq, Repr

/-- The reading that two registers hold: `sext(TEMP)/10` and `HUM/10` (R34). -/
def readingOf (hum temp : Tenths) : Reading where
  temperature := (temp.toInt : ℚ) / 10
  humidity := (hum.toNat : ℚ) / 10

/-- `Result(state)` (R34). With `PH` = `FAILED` the rule takes the kind that `ERR` codes; a state with
`PH` = `FAILED` and `ERR` = `None` is unreachable (R40 (e)) and is given `Pending` (log entry 10). -/
def result (s : State) : Result :=
  match s.ph with
  | .done => .done (readingOf s.hum s.temp)
  | .failed =>
    match s.err with
    | some k => .failed k
    | none => .pending
  | _ => .pending

end Sys2Proof.Machine
end

