-- ==== Sys2Proof/Machine/Ops.lean ====
section
/-! DEFINITION. The shared operations that the meanings are written with: the line primitives of R12, the
changes of phase, the holds and bounded waits, the shift-in, and `raise Fail`, which is what taking an
exception is on this hardware (R236). There is no return from a failure (R240): `FAILED` is left by an
accepted `DECODE` (`beginAttempt`) or by reset (`resetRegisters`). -/

namespace Sys2Proof.Machine

/-- What an operation answers. -/
abbrev Answer := Host.Outcome State Fault Refusal

/-- Go on with `k` where `a` gives a next state. -/
def andThen (a : Answer) (k : State → Answer) : Answer :=
  match a with
  | .next s => k s
  | .fault e => .fault e
  | .refused r => .refused r

/-! ### The line (R12, R210 to R214) -/

/-- `LineDir(d)`: `LINE_OE <- (d = Output)` (R12, R210, R211). -/
def lineDir (d : Dir) (s : State) : State := { s with lineOe := d == .output }

/-- `LineWrite(v)`: `LINE_OUT <- v`, "only valid in Output mode" (R12, R212, R213, R216). -/
def lineWrite (v : Level) (s : State) : Answer :=
  if s.lineOe then .next { s with lineOut := v } else .refused .writeInInputMode

/-- `v = LineRead()`, then `k v`; "only valid in Input mode" (R12, R214, R216). -/
def lineRead (s : State) (k : Level → Answer) : Answer :=
  if s.lineOe then .refused .readInOutputMode else k (lineIn s)

/-! ### Phases and their counter -/

/-- `PH <- p` with `TMR <- 0`: `TMR` "is set to 0 on every change of phase" (R25). -/
def enterPhase (p : Phase) (s : State) : State := { s with ph := p, tmr := 0 }

/-- `TMR <- TMR + 1` (R25). -/
def countTick (s : State) : State := { s with tmr := s.tmr + 1 }

/-- `TMR <- 0 ; BITCNT <- 0 ; F[0..4] <- 0` (R186). -/
def clearTransient (s : State) : State := { s with tmr := 0, bitcnt := 0, f := Frame.zero }

/-- `raise Fail(kind)` (R236): `PH <- FAILED ; ERR <- kind`, the transient registers cleared, and nothing
else: no register saves where the attempt stood, no mode or mask changes. -/
def raiseFail (k : FailKind) (s : State) : State :=
  clearTransient { s with ph := .failed, err := some k }

/-- A hold of `bound` ticks: count, and at the last tick do `k` (R101, R102, R128). -/
def hold (bound : Nat) (k : State → Answer) (s : State) : Answer :=
  if elapsed s = bound then k s else .next (countTick s)

/-- The bounded wait for level `w` with bound `bound` (R120): the wanted level is tested first, then the
bound. -/
def boundedWait (w : Level) (bound : Nat) (kind : FailKind) (k : State → Answer) (s : State) : Answer :=
  lineRead s fun v =>
    if v = w then k s
    else if elapsed s = bound then .next (raiseFail kind s)
    else .next (countTick s)

/-! ### The frame -/

/-- `ShiftIn(b)` (R151): one bit into `F[BITCNT div 8]`, and `BITCNT <- BITCNT + 1`. -/
def shiftBit (b : Bool) (s : State) : Answer :=
  match s.f.get? (frameIndex s) with
  | some v => .next { s with f := s.f.set (frameIndex s) (shiftByte v b), bitcnt := s.bitcnt + 1 }
  | none => .fault .frameByteAbsent

/-! ### Commands -/

/-- Every register at its reset value (R39, R260); the configuration and the environment stay. -/
def resetRegisters (s : State) : State :=
  { State.reset with cfg := s.cfg, inputs := s.inputs, tick := s.tick, value := s.value }

/-- What an accepted `DECODE` writes beside the two line operations (R183). -/
def beginAttempt (s : State) : State :=
  { s with
    ph := .hsLow, tmr := 0, bitcnt := 0, f := Frame.zero, err := none, hum := 0, temp := 0 }

end Sys2Proof.Machine
end

