-- ==== Sys2Proof/Machine/Failures.lean ====
section
/-! DEFINITION. `FAIL` (`60_exceptions.md`): `raise Fail(kind)` with its operand, and the operation of each
of the five kinds. -/

namespace Sys2Proof.Machine

/-- `FAIL kkk` (R236). -/
def execFail (k : FailKind) (s : State) : Answer := .next (raiseFail k s)

/-- `FAIL.NoResponse`, code 1 (R231, R236). -/
def execFailNoResponse (s : State) : Answer := .next (raiseFail .noResponse s)

/-- `FAIL.ProtocolViolation`, code 2 (R232, R236). -/
def execFailProtocolViolation (s : State) : Answer := .next (raiseFail .protocolViolation s)

/-- `FAIL.Timeout`, code 3 (R233, R236). -/
def execFailTimeout (s : State) : Answer := .next (raiseFail .timeout s)

/-- `FAIL.Measurement`, code 4 (R234, R236). -/
def execFailMeasurement (s : State) : Answer := .next (raiseFail .measurement s)

/-- `FAIL.ChecksumError`, code 5 (R235, R236). -/
def execFailChecksumError (s : State) : Answer := .next (raiseFail .checksumError s)

end Sys2Proof.Machine
end

