-- ==== Sys2Proof/Machine/LineOps.lean ====
section
/-! DEFINITION. The line operations (`46_line_ops.md`), each as an operation of its own, and the sequence
of them that a tick issues (R215). -/

namespace Sys2Proof.Machine

/-- `SETDIR_OUT` = `setDirection(Output)` (R210): `LINE_OE <- 1`. -/
def execSetdirOut (s : State) : Answer := .next (lineDir .output s)

/-- `SETDIR_IN` = `setDirection(Input)` (R211): `LINE_OE <- 0`; `LINE_OUT` is not changed. -/
def execSetdirIn (s : State) : Answer := .next (lineDir .input s)

/-- `WRITE_LOW` = `writeLevel(0)` (R212): `LINE_OUT <- 0`, "only valid in Output mode". -/
def execWriteLow (s : State) : Answer := lineWrite false s

/-- `WRITE_HIGH` = `writeLevel(1)` (R213): `LINE_OUT <- 1`, "only valid in Output mode". -/
def execWriteHigh (s : State) : Answer := lineWrite true s

/-- `READ_LEVEL` = `readLevel()` (R214): the value is `line_in` at this tick; the core does nothing else
with it on its own. "Only valid in Input mode". -/
def execReadLevel (s : State) : Answer := lineRead s fun v => .next { s with value := .level v }

/-- A phase that performs `LineRead()` (R22). -/
def readsLine : Phase → Bool
  | .hsAck1 => true
  | .hsAck2 => true
  | .smWaitLow => true
  | .smWaitHigh => true
  | .smMeasure => true
  | .idle => false
  | .hsLow => false
  | .hsRel => false
  | .smGap => false
  | .validate => false
  | .done => false
  | .failed => false

/-- The line operations that the coming tick issues, in order (R215; R55 for the accepting tick). A tick
with `rst` = 1 issues none: reset writes the registers itself (R260). A refused tick (busy, `rst` = 0,
`start` = 1, R184) has no next state, and the spec gives it no line operation; here it lists those of its
phase's rule, which is the model's own choice (DESIGN CHOICE, log entry 15). -/
def lineOpsOfTick (s : State) : List LineOp :=
  let i := currentInput s
  if i.rst then []
  else if !busy s then (if i.start then [.setdirOut, .writeLow] else [])
  else if readsLine s.ph then [.readLevel]
  else if s.ph = .hsLow ∧ elapsed s = s.cfg.tWake then [.writeHigh]
  else if s.ph = .hsRel ∧ elapsed s = s.cfg.tRelease then [.setdirIn]
  else []

end Sys2Proof.Machine
end

