-- ==== Sys2Proof/Machine/Converter.lean ====
section
/-! DEFINITION. The unit converter (`44_unit_converter.md`): `CONV_HUM`, `CONV_TEMP`. Fixed point, no
rounding, no range check (R165, R170). -/

namespace Sys2Proof.Machine

/-- `ConvHum(F)` (R166). -/
def convHum (f : Frame) : Tenths := f.humidity

/-- The signed number of tenths `t` of R167. -/
def signedTenths (f : Frame) : Int :=
  if f.negative then -(f.magnitude.toNat : Int) else f.magnitude.toNat

/-- `ConvTemp(F)` = `t mod 65536` (R167): sign and magnitude to two's complement. -/
def convTemp (f : Frame) : Tenths := BitVec.ofInt 16 (signedTenths f)

/-- `CONV_HUM` (R166): `HUM <- ConvHum(F)`. -/
def execConvHum (s : State) : Answer := .next { s with hum := convHum s.f }

/-- `CONV_TEMP` (R167): `TEMP <- ConvTemp(F)`. -/
def execConvTemp (s : State) : Answer := .next { s with temp := convTemp s.f }

end Sys2Proof.Machine
end

