-- ==== Sys2Proof/Machine/Handshake.lean ====
section
/-! DEFINITION. The handshake controller (`41_handshake.md`): phases `HS_LOW`, `HS_REL`, `HS_ACK1`,
`HS_ACK2`. Each is the arm of the step function for a tick with `rst` = `start` = 0 and `PH` the phase. -/

namespace Sys2Proof.Machine

/-- `HS_LOW` (R101): hold the line low for `T_WAKE` ticks, then drive it high. -/
def execHsLow (s : State) : Answer :=
  hold s.cfg.tWake (fun s => andThen (lineWrite true s) fun s => .next (enterPhase .hsRel s)) s

/-- `HS_REL` (R102): hold the line high for `T_RELEASE` ticks, then switch it to input. -/
def execHsRel (s : State) : Answer :=
  hold s.cfg.tRelease (fun s => .next (enterPhase .hsAck1 (lineDir .input s))) s

/-- `HS_ACK1` (R103): wait up to `T_ACK` samples for low; else `NoResponse`. -/
def execHsAck1 (s : State) : Answer :=
  boundedWait false s.cfg.tAck .noResponse (fun s => .next (enterPhase .hsAck2 s)) s

/-- `HS_ACK2` (R104): wait up to `T_ACK` samples for high; else `ProtocolViolation`. -/
def execHsAck2 (s : State) : Answer :=
  boundedWait true s.cfg.tAck .protocolViolation (fun s => .next (enterPhase .smWaitLow s)) s

end Sys2Proof.Machine
end

