-- ==== Sys2Proof/Machine/Assembler.lean ====
section
/-! DEFINITION. The frame assembler and checksum validator (`43_frame_assembler.md`): `SHIFT_IN`,
`CHECKSUM`. -/

namespace Sys2Proof.Machine

/-- `ChecksumOk(F)` (R153): the low eight bits of the sum of the four data bytes are the fifth byte. -/
def checksumOk (f : Frame) : Bool :=
  (f.f0.toNat + f.f1.toNat + f.f2.toNat + f.f3.toNat) % 256 == f.f4.toNat

/-- `SHIFT_IN` with the bit `b` (R151). -/
def execShiftIn (b : Bool) (s : State) : Answer := shiftBit b s

/-- `CHECKSUM` (R153): a pure function of the five bytes; its value is whether the frame is valid. -/
def execChecksum (s : State) : Answer := .next { s with value := .valid (checksumOk s.f) }

end Sys2Proof.Machine
end

