-- ==== Sys2Proof/Machine/Sampler.lean ====
section
/-! DEFINITION. The pulse-width sampler and classifier (`42_pulse_sampler.md`): `CLASSIFY`, the five pulse
symbols, and phases `SM_WAITLOW`, `SM_WAITHIGH`, `SM_MEASURE`, `SM_GAP`. -/

namespace Sys2Proof.Machine

/-- `Classify(e)` (R126) with the outcome of a pulse longer than `T_TIMEOUT` (R73, R125): the four
outcomes of R127. R126 itself is defined on 1..`T_TIMEOUT` only. -/
def classify (c : Params) (e : Nat) : SampleOutcome :=
  if c.tZeroMin ≤ e ∧ e ≤ c.tZeroMax then .zero
  else if c.tOneMin ≤ e ∧ e ≤ c.tOneMax then .one
  else if e ≤ c.tTimeout then .error
  else .timedOut

/-- What becomes of a Bit Sample (R123, R127): `Zero` and `One` are shifted in and the delay begins, the
other two end the attempt. -/
def consumeSample (o : SampleOutcome) (s : State) : Answer :=
  match o with
  | .zero => andThen (shiftBit false s) fun s => .next (enterPhase .smGap s)
  | .one => andThen (shiftBit true s) fun s => .next (enterPhase .smGap s)
  | .error => .next (raiseFail .measurement s)
  | .timedOut => .next (raiseFail .timeout s)

/-- `CLASSIFY` (R126): the outcome of the duration `e` = `TMR + 1`; it writes no register. -/
def execClassify (s : State) : Answer :=
  .next { s with value := .outcome (classify s.cfg (elapsed s)) }

/-! ### The pulse symbols (R73)

A symbol is one high pulse of the line; executing it is the tick at which the core decides on a pulse of
`d` ticks (log entry 6). -/

/-- `SHORT` (R73, R126): 1..25 ticks, `Error`. -/
def execShort (d : Nat) (s : State) : Answer := consumeSample (classify s.cfg d) s

/-- `ZERO` (R73, R126): 26..28 ticks, bit 0. -/
def execZero (d : Nat) (s : State) : Answer := consumeSample (classify s.cfg d) s

/-- `AMBIGUOUS` (R73, R126): 29..69 ticks, `Error`. -/
def execAmbiguous (d : Nat) (s : State) : Answer := consumeSample (classify s.cfg d) s

/-- `ONE` (R73, R126): 70..100000 ticks, bit 1. -/
def execOne (d : Nat) (s : State) : Answer := consumeSample (classify s.cfg d) s

/-- `OVERLONG` (R73, R125): more than 100000 ticks, `TimedOut`. -/
def execOverlong (d : Nat) (s : State) : Answer := consumeSample (classify s.cfg d) s

/-! ### The phases -/

/-- `SM_WAITLOW` (R121): wait up to `T_TIMEOUT` samples for low; else `Timeout`. -/
def execSmWaitLow (s : State) : Answer :=
  boundedWait false s.cfg.tTimeout .timeout (fun s => .next (enterPhase .smWaitHigh s)) s

/-- `SM_WAITHIGH` (R122): wait up to `T_TIMEOUT` samples for high; else `Timeout`. -/
def execSmWaitHigh (s : State) : Answer :=
  boundedWait true s.cfg.tTimeout .timeout (fun s => .next (enterPhase .smMeasure s)) s

/-- `SM_MEASURE` (R123): the bounded wait for the fall, whose elapsed time is the duration of the pulse. -/
def execSmMeasure (s : State) : Answer :=
  boundedWait false s.cfg.tTimeout .timeout
    (fun s => consumeSample (classify s.cfg (elapsed s)) s) s

/-- `SM_GAP` (R128): hold `T_GAP` ticks, then the next bit, or `VALIDATE` after the fortieth. -/
def execSmGap (s : State) : Answer :=
  hold s.cfg.tGap
    (fun s =>
      .next (enterPhase (if s.bitcnt.toNat = s.cfg.nBits then .validate else .smWaitLow) s)) s

end Sys2Proof.Machine
end

