-- ==== Sys2Proof/Machine/Orchestrator.lean ====
section
/-! DEFINITION. The decode orchestrator (`45_orchestrator.md`): phases `IDLE`, `VALIDATE`, `DONE`, `FAILED`,
the transmission `FRAME`, and the commands `RESET`, `DECODE`, `NOP`. -/

namespace Sys2Proof.Machine

/-- `VALIDATE`'s work on a frame (R188): where the checksum holds, convert and be done; else
`ChecksumError`, with nothing converted. -/
def validateFrame (f : Frame) (s : State) : Answer :=
  if checksumOk f then
    .next (clearTransient { s with hum := convHum f, temp := convTemp f, ph := .done })
  else .next (raiseFail .checksumError s)

/-- `IDLE` (R185): no register changes. -/
def execIdle (s : State) : Answer := .next s

/-- `VALIDATE` (R188): on the frame in `F[0..4]`, as it was before the tick. -/
def execValidate (s : State) : Answer := validateFrame s.f s

/-- `DONE` (R189): no register changes. -/
def execDone (s : State) : Answer := .next s

/-- `FAILED` (R190): no register changes. -/
def execFailed (s : State) : Answer := .next s

/-- `FRAME` (R71): a whole transmission with these fields; executing it is the tick at which the core
decides on the frame (log entry 6). -/
def execFrame (h : BitVec 16) (sign : Bool) (m : BitVec 15) (c : Byte) (s : State) : Answer :=
  validateFrame (Frame.ofFields h sign m c) s

/-- `RESET` (R260): every register to its reset value; the bit `start` is ignored (R261). -/
def execReset (_start : Bool) (s : State) : Answer := .next (resetRegisters s)

/-- `DECODE` (R182, R183): accepted when not busy, and refused when busy (R184). -/
def execDecode (s : State) : Answer :=
  if busy s then .refused .startWhileBusy
  else andThen (lineWrite false (lineDir .output s)) fun s => .next (beginAttempt s)

/-- `NOP` (R78): "no command: the current phase's rule runs" (R180, R185). -/
def execNop (s : State) : Answer :=
  match s.ph with
  | .idle => execIdle s
  | .hsLow => execHsLow s
  | .hsRel => execHsRel s
  | .hsAck1 => execHsAck1 s
  | .hsAck2 => execHsAck2 s
  | .smWaitLow => execSmWaitLow s
  | .smWaitHigh => execSmWaitHigh s
  | .smMeasure => execSmMeasure s
  | .smGap => execSmGap s
  | .validate => execValidate s
  | .done => execDone s
  | .failed => execFailed s

end Sys2Proof.Machine
end

