-- ==== Sys2Proof/Machine/Dispatch.lean ====
section
/-! DEFINITION. The meaning of every operation of the opcode table: one arm per constructor of `Instr`. -/

namespace Sys2Proof.Machine

def exec (i : Instr) (s : State) : Host.Outcome State Fault Refusal :=
  match i with
  | .reset start => Sys2Proof.Machine.execReset start s
  | .decode => Sys2Proof.Machine.execDecode s
  | .nop => Sys2Proof.Machine.execNop s
  | .idle => Sys2Proof.Machine.execIdle s
  | .hsLow => Sys2Proof.Machine.execHsLow s
  | .hsRel => Sys2Proof.Machine.execHsRel s
  | .hsAck1 => Sys2Proof.Machine.execHsAck1 s
  | .hsAck2 => Sys2Proof.Machine.execHsAck2 s
  | .smWaitLow => Sys2Proof.Machine.execSmWaitLow s
  | .smWaitHigh => Sys2Proof.Machine.execSmWaitHigh s
  | .smMeasure => Sys2Proof.Machine.execSmMeasure s
  | .smGap => Sys2Proof.Machine.execSmGap s
  | .validate => Sys2Proof.Machine.execValidate s
  | .done => Sys2Proof.Machine.execDone s
  | .failed => Sys2Proof.Machine.execFailed s
  | .short d => Sys2Proof.Machine.execShort d s
  | .zero d => Sys2Proof.Machine.execZero d s
  | .ambiguous d => Sys2Proof.Machine.execAmbiguous d s
  | .one d => Sys2Proof.Machine.execOne d s
  | .overlong d => Sys2Proof.Machine.execOverlong d s
  | .frame h sign m c => Sys2Proof.Machine.execFrame h sign m c s
  | .classify => Sys2Proof.Machine.execClassify s
  | .shiftIn b => Sys2Proof.Machine.execShiftIn b s
  | .checksum => Sys2Proof.Machine.execChecksum s
  | .convHum => Sys2Proof.Machine.execConvHum s
  | .convTemp => Sys2Proof.Machine.execConvTemp s
  | .setdirIn => Sys2Proof.Machine.execSetdirIn s
  | .setdirOut => Sys2Proof.Machine.execSetdirOut s
  | .writeLow => Sys2Proof.Machine.execWriteLow s
  | .writeHigh => Sys2Proof.Machine.execWriteHigh s
  | .readLevel => Sys2Proof.Machine.execReadLevel s
  | .fail k => Sys2Proof.Machine.execFail k s
  | .failNoResponse => Sys2Proof.Machine.execFailNoResponse s
  | .failProtocolViolation => Sys2Proof.Machine.execFailProtocolViolation s
  | .failTimeout => Sys2Proof.Machine.execFailTimeout s
  | .failMeasurement => Sys2Proof.Machine.execFailMeasurement s
  | .failChecksumError => Sys2Proof.Machine.execFailChecksumError s

end Sys2Proof.Machine
end

