-- ==== Sys2Proof/Machine/Fetch.lean ====
section
/-! DEFINITION. What stands for fetching an instruction on a machine that "has no instruction fetch" (R62):
the command that a tick's `rst` and `start` make (R78), and the phase register, which plays the part of a
program counter (R24). Also how the environment's inputs move on, and how a test places the operation that
the next step runs. -/

namespace Sys2Proof.Machine

/-- The command of the coming tick: the decoding of `rst ++ start` (R78). -/
def fetch (s : State) : Instr := command (currentInput s).rst (currentInput s).start

/-- The end of a tick: the environment moves on to the next inputs, and a value that an operation handed
back is gone, since it "exists only inside the tick" (R38 (b)). No register changes. -/
def endTick (s : State) : State := { s with inputs := s.inputs.tail, tick := s.tick + 1, value := .nothing }

/-- The level listed for the coming tick, low where none is listed. -/
def listedLevel (s : State) : Level :=
  match s.inputs with
  | i :: _ => i.lineIn
  | [] => false

/-- Present the inputs `i` at the coming tick, in place of those listed for it. -/
def present (i : Inputs) (s : State) : State := { s with inputs := i :: s.inputs.tail }

/-- Present the coming tick's command, at the level listed for that tick. -/
def presentCommand (rst start : Bool) (s : State) : State :=
  present { rst := rst, start := start, lineIn := listedLevel s } s

/-- Let the coming tick run phase `p`: no command, and `PH` = `p`. -/
def presentPhase (p : Phase) (s : State) : State := { presentCommand false false s with ph := p }

/-- Let the coming tick be the one that ends a pulse of `d` ticks in `SM_MEASURE`: `TMR` = `d − 1` and the
line low (R123); or, for a pulse longer than the bound, the last permitted sample with the line still
high (R125). -/
def presentPulse (d : Nat) (s : State) : State :=
  if d ≤ s.cfg.tTimeout then
    { present (Inputs.quiet false) s with ph := .smMeasure, tmr := BitVec.ofNat 17 (d - 1) }
  else
    { present (Inputs.quiet true) s with ph := .smMeasure, tmr := BitVec.ofNat 17 (s.cfg.tTimeout - 1) }

/-- Let the coming tick be the one that decides on the frame `f`: `VALIDATE` with forty bits in (R188). -/
def presentFrame (f : Frame) (s : State) : State :=
  { presentPhase .validate s with f := f, bitcnt := BitVec.ofNat 6 s.cfg.nBits }

/-- Let the coming tick run the operation `i` (log entry 8). The functions, the line operations and `FAIL`
are performed only inside a command's or a phase's tick (R80): no tick runs one of them alone, so the
state is left as it is. -/
def placeNext (i : Instr) (s : State) : State :=
  match i with
  | .reset start => presentCommand true start s
  | .decode => presentCommand false true s
  | .nop => presentCommand false false s
  | .idle => presentPhase .idle s
  | .hsLow => presentPhase .hsLow s
  | .hsRel => presentPhase .hsRel s
  | .hsAck1 => presentPhase .hsAck1 s
  | .hsAck2 => presentPhase .hsAck2 s
  | .smWaitLow => presentPhase .smWaitLow s
  | .smWaitHigh => presentPhase .smWaitHigh s
  | .smMeasure => presentPhase .smMeasure s
  | .smGap => presentPhase .smGap s
  | .validate => presentPhase .validate s
  | .done => presentPhase .done s
  | .failed => presentPhase .failed s
  | .short d => presentPulse d s
  | .zero d => presentPulse d s
  | .ambiguous d => presentPulse d s
  | .one d => presentPulse d s
  | .overlong d => presentPulse d s
  | .frame h sign m c => presentFrame (Frame.ofFields h sign m c) s
  | .classify => s
  | .shiftIn _ => s
  | .checksum => s
  | .convHum => s
  | .convTemp => s
  | .setdirIn => s
  | .setdirOut => s
  | .writeLow => s
  | .writeHigh => s
  | .readLevel => s
  | .fail _ => s
  | .failNoResponse => s
  | .failProtocolViolation => s
  | .failTimeout => s
  | .failMeasurement => s
  | .failChecksumError => s

end Sys2Proof.Machine
end

