-- ==== Sys2Proof/Machine/Step.lean ====
section
/-! DEFINITION. The step function: one tick (R7, R8, R180). -/

namespace Sys2Proof.Machine

/-- One tick (R180): the command that `rst` and `start` make is executed, `NOP` running the rule of the
current phase; then the environment moves on. -/
def step (s : State) : Host.Outcome State Fault Refusal :=
  andThen (exec (fetch s) s) fun t => .next (endTick t)

/-- `s` with the opcode-table word `w` of `nbits` bits placed so that the next step runs it (log entry 8).
A word that the decoder rejects places nothing. -/
def State.withFetchWord (s : State) (nbits w : Nat) : State :=
  match decodeTableWord nbits w with
  | some i => placeNext i s
  | none => s

end Sys2Proof.Machine
end

