-- ==== Sys2Proof/Machine/Script.lean ====
section
/-! DEFINITION. Line scripts, the notation of R83: runs of a level, and the runs of a transmitted frame. -/

namespace Sys2Proof.Machine

/-- One run of a script, `H<count>` or `L<count>` (R83). -/
structure LineRun where
  level : Level
  count : Nat
  deriving DecidableEq, Repr

/-- `H<n>`. -/
def high (n : Nat) : LineRun := { level := true, count := n }

/-- `L<n>`. -/
def low (n : Nat) : LineRun := { level := false, count := n }

/-- `( runs )x n`. -/
def repeatRuns (runs : List LineRun) (n : Nat) : List LineRun := (List.replicate n runs).flatten

/-- The level at each tick of the runs. -/
def levels (runs : List LineRun) : List Level := runs.flatMap fun r => List.replicate r.count r.level

/-- `PULSES(F; l, z, o)` (R83): for each bit of the frame in the order of the line, `l` low ticks and a
high pulse of `z` ticks for a 0, of `o` ticks for a 1. -/
def pulses (f : Frame) (l z o : Nat) : List LineRun :=
  f.bits.flatMap fun b => [low l, high (if b then o else z)]

/-- A line script (R83): the tick of its first level, its runs, and the level of every later tick. -/
structure Script where
  first : Nat
  runs : List LineRun
  tail : Level
  deriving DecidableEq, Repr

/-- The level a script gives at a tick; before its first tick the level "is irrelevant" (R83). -/
def Script.level? (sc : Script) (tick : Nat) : Option Level :=
  if tick < sc.first then none else some ((levels sc.runs).getD (tick - sc.first) sc.tail)

/-- The inputs of ticks at which the caller asks for nothing and the line has these levels. -/
def quietInputs (ls : List Level) : List Inputs := ls.map Inputs.quiet

end Sys2Proof.Machine
end

