-- ==== Sys2Proof/Safety.lean ====
section
/-! DEFINITION. What the claims are stated in: the invariants of R40, the caller's premise of R270 (b), the
transfers of control of R181, and the last tick of an attempt (R17). -/

namespace Sys2Proof.Machine

/-- The frame is only as full as `BITCNT` says (R40 (g), first sentence). -/
abbrev frameFilled (s : State) : Prop :=
  (∀ i v, s.f.get? i = some v → frameIndex s < i → v = 0) ∧
  (s.bitcnt.toNat < 40 →
    ∀ v, s.f.get? (frameIndex s) = some v → v.toNat < 2 ^ (s.bitcnt.toNat % 8))

/-- The bound of `TMR` in a phase (R40 (h)): it is below this number. Where `TMR` = 0 the number is 1. -/
def tmrBound (c : Params) : Phase → Nat
  | .idle => 1
  | .hsLow => c.tWake
  | .hsRel => c.tRelease
  | .hsAck1 => c.tAck
  | .hsAck2 => c.tAck
  | .smWaitLow => c.tTimeout
  | .smWaitHigh => c.tTimeout
  | .smMeasure => c.tTimeout
  | .smGap => c.tGap
  | .validate => 1
  | .done => 1
  | .failed => 1

/-- The phases in which a frame is being assembled or checked (R40 (d)). -/
def holdsBits : Phase → Bool
  | .smWaitLow => true
  | .smWaitHigh => true
  | .smMeasure => true
  | .smGap => true
  | .validate => true
  | .idle => false
  | .hsLow => false
  | .hsRel => false
  | .hsAck1 => false
  | .hsAck2 => false
  | .done => false
  | .failed => false

/-- R40, for a conforming configuration. Clause (a) is the type of `PH`, `ERR` ≤ 5 of (e) the type of
`ERR`. -/
structure Invariant (s : State) : Prop where
  /-- R9: the parameters are those of a conforming core. -/
  conforming : s.cfg.Conforming
  /-- (b), first half. -/
  driven : s.lineOe = true ↔ s.ph = .hsLow ∨ s.ph = .hsRel
  /-- (b), second half. -/
  drivenLow : s.lineOut = false ↔ s.ph = .hsLow
  /-- (c): the line is in `Input` mode where it is read. -/
  readable : readsLine s.ph = true → s.lineOe = false
  /-- (d). -/
  bitsMax : s.bitcnt.toNat ≤ 40
  /-- (d). -/
  bitsNone : holdsBits s.ph = false → s.bitcnt = 0
  /-- (d). -/
  bitsAll : s.ph = .validate → s.bitcnt.toNat = 40
  /-- (d). -/
  bitsGap : s.ph = .smGap → 1 ≤ s.bitcnt.toNat
  /-- (d). -/
  bitsRoom : s.ph = .smWaitLow ∨ s.ph = .smWaitHigh ∨ s.ph = .smMeasure → s.bitcnt.toNat ≤ 39
  /-- (e). -/
  errKind : s.err ≠ none ↔ s.ph = .failed
  /-- (f). -/
  noReading : s.ph ≠ .done → s.hum = 0 ∧ s.temp = 0
  /-- (g), first sentence. -/
  filled : frameFilled s
  /-- (g), second sentence. -/
  emptied : holdsBits s.ph = false → s.f = Frame.zero
  /-- (h). -/
  timer : s.tmr.toNat < tmrBound s.cfg s.ph

/-- The caller asks for nothing at the coming `n` ticks: neither `rst` nor `start` (R270 (b)). -/
def QuietFor (n : Nat) (s : State) : Prop :=
  ∀ k, k < n → (upcoming s k).rst = false ∧ (upcoming s k).start = false

/-- What a tick answers once its operation has: the environment moves on. -/
def afterTick (a : Answer) : Answer := andThen a fun t => .next (endTick t)

/-- `n` ticks from `s`, stopping at the first fault or refusal. -/
def runTicks : Nat → State → Answer
  | 0, s => .next s
  | n + 1, s => andThen (step s) (runTicks n)

/-- `n` ticks from `s` end in the state `t`. -/
def RunsTo (n : Nat) (s t : State) : Prop := runTicks n s = .next t

/-- The ports and registers of two states agree: all of the hardware's state (R20) and its configuration. -/
def sameRegisters (s t : State) : Prop :=
  s.ph = t.ph ∧ s.tmr = t.tmr ∧ s.bitcnt = t.bitcnt ∧ s.f = t.f ∧ s.err = t.err ∧ s.hum = t.hum ∧
  s.temp = t.temp ∧ s.lineOe = t.lineOe ∧ s.lineOut = t.lineOut ∧ s.cfg = t.cfg

/-- The registers after `raise Fail(k)`, as R236 lists them. -/
def failureOf (k : FailKind) (s : State) : State :=
  { s with ph := .failed, err := some k, tmr := 0, bitcnt := 0, f := Frame.zero }

/-- The five bounded waits (R120): the wanted level, the bound, and the failure of an expired wait. -/
def waitOf (c : Params) : Phase → Option (Level × Nat × FailKind)
  | .hsAck1 => some (false, c.tAck, .noResponse)
  | .hsAck2 => some (true, c.tAck, .protocolViolation)
  | .smWaitLow => some (false, c.tTimeout, .timeout)
  | .smWaitHigh => some (true, c.tTimeout, .timeout)
  | .smMeasure => some (false, c.tTimeout, .timeout)
  | .idle => none
  | .hsLow => none
  | .hsRel => none
  | .smGap => none
  | .validate => none
  | .done => none
  | .failed => none

/-- The phase that a satisfied wait leads to; `SM_MEASURE` is left as its pulse decides (R123). -/
def afterWait : Phase → Option Phase
  | .hsAck1 => some .hsAck2
  | .hsAck2 => some .smWaitLow
  | .smWaitLow => some .smWaitHigh
  | .smWaitHigh => some .smMeasure
  | .smMeasure => none
  | .idle => none
  | .hsLow => none
  | .hsRel => none
  | .smGap => none
  | .validate => none
  | .done => none
  | .failed => none

/-- Line operations executed one after another. -/
def runLineOps (ops : List LineOp) (s : State) : Answer :=
  ops.foldl (fun a o => andThen a (exec o.instr)) (.next s)

/-- `SHIFT_IN`s executed one after another. -/
def shiftAll (bits : List Bool) (s : State) : Answer :=
  bits.foldl (fun a b => andThen a (exec (.shiftIn b))) (.next s)

/-- The coming `n` samples of the line all read `v`. -/
def LineReads (v : Level) (n : Nat) (s : State) : Prop := ∀ k, k < n → (upcoming s k).lineIn = v

/-- One pulse of a transmission: the low run before it and the length of its high run (R130). -/
structure Pulse where
  lowRun : Nat
  width : Nat
  deriving DecidableEq, Repr

/-- The runs of a sequence of pulses. -/
def pulseRuns (ps : List Pulse) : List LineRun := ps.flatMap fun p => [low p.lowRun, high p.width]

/-- The ticks of a sequence of pulses. -/
def pulseTicks (ps : List Pulse) : Nat := (ps.map fun p => p.lowRun + p.width).sum

/-- R130's conditions on the pulses of a transmission of the frame `f`: forty of them, each of the width
of its bit, the first low run of at most `T_TIMEOUT` ticks and the later ones of 52 to 100050. -/
def LegalPulses (c : Params) (f : Frame) (ps : List Pulse) : Prop :=
  ps.length = 40 ∧
  (∀ k p, ps[k]? = some p →
    classify c p.width = (if f.bit k then .one else .zero) ∧
    (k = 0 → 1 ≤ p.lowRun ∧ p.lowRun ≤ c.tTimeout) ∧
    (1 ≤ k → c.tGap + 2 ≤ p.lowRun ∧ p.lowRun ≤ c.tGap + c.tTimeout))

/-- The transfers of control of R181 that no reset makes: from phase, to phase. -/
def transfers : List (Phase × Phase) :=
  [(.idle, .hsLow), (.done, .hsLow), (.failed, .hsLow),
   (.hsLow, .hsRel), (.hsRel, .hsAck1),
   (.hsAck1, .hsAck2), (.hsAck1, .failed),
   (.hsAck2, .smWaitLow), (.hsAck2, .failed),
   (.smWaitLow, .smWaitHigh), (.smWaitLow, .failed),
   (.smWaitHigh, .smMeasure), (.smWaitHigh, .failed),
   (.smMeasure, .smGap), (.smMeasure, .failed),
   (.smGap, .smWaitLow), (.smGap, .validate),
   (.validate, .done), (.validate, .failed)]

/-- The number of the last tick an attempt can end at, counted from the accepting tick 0 (R17). -/
def lastTick (c : Params) : Nat :=
  c.tWake + c.tRelease + 2 * c.tAck + c.nBits * (3 * c.tTimeout + c.tGap) + 1

end Sys2Proof.Machine
end

