-- ==== Sys2Proof/Certificates/Slice0/Obligations.lean ====
section
/-! DEFINITION. The statements for the provers, from the numbered rules of the spec. -/

open Sys2Proof Sys2Proof.Machine

/-! ## Commands and the step -/

/-- R260 (with R261, R262): whatever `start`, `line_in` and the state are, a tick with `rst` = 1 leaves
every register at its reset value and the three status flags at 0, and the configuration as it was. -/
def Obligations.ResetWritesEveryRegister : Prop :=
  ∀ (start : Bool) (s : State),
    exec (.reset start) s = .next
      { s with
        ph := .idle, tmr := 0, bitcnt := 0, f := Frame.zero, err := none, hum := 0, temp := 0,
        lineOe := false, lineOut := true } ∧
    ((currentInput s).rst = true → step s = afterTick (exec (.reset start) s)) ∧
    ∀ t, exec (.reset start) s = .next t →
      (outputs t).busy = false ∧ (outputs t).done = false ∧ (outputs t).failed = false

/-- R39: the reset table, the outputs after reset, and the result; after any tick with `rst` = 1, and in
the state the model starts from. -/
def Obligations.StateAfterReset : Prop :=
  ∀ s : State,
    (s = State.reset ∨ ∃ r, (currentInput r).rst = true ∧ step r = .next s) →
      s.ph = .idle ∧ s.tmr = 0 ∧ s.bitcnt = 0 ∧ (∀ i v, s.f.get? i = some v → v = 0) ∧ s.err = none ∧
      s.hum = 0 ∧ s.temp = 0 ∧ s.lineOe = false ∧ s.lineOut = true ∧
      outputs s =
        { lineOe := false, lineOut := true, busy := false, done := false, failed := false, err := 0,
          humX10 := 0, tempX10 := 0 } ∧
      result s = .pending

/-- R183: what an accepted `DECODE` writes: every register, and nothing of the state before is left; `busy`
becomes 1, `done` and `failed` 0. -/
def Obligations.DecodeBeginsAnAttempt : Prop :=
  ∀ s : State, busy s = false →
    exec .decode s = .next
      { s with
        ph := .hsLow, tmr := 0, bitcnt := 0, f := Frame.zero, err := none, hum := 0, temp := 0,
        lineOe := true, lineOut := false } ∧
    ∀ t, exec .decode s = .next t →
      (outputs t).busy = true ∧ (outputs t).done = false ∧ (outputs t).failed = false

/-- R184: the step function gives no next state for a tick with `rst` = 0, `start` = 1 and the core busy. -/
def Obligations.StartWhileBusyIsRefused : Prop :=
  ∀ s : State, busy s = true →
    exec .decode s = .refused .startWhileBusy ∧
    ((currentInput s).rst = false → (currentInput s).start = true →
      step s = .refused .startWhileBusy)

/-- R180's pseudocode: which operation a tick runs, arm by arm. That the environment then moves on to the
next tick's inputs (`afterTick`, `endTick`) is the model's own choice (log entry 3). That every arm but the
refused one has a next state is the statement OnlyStartWhileBusyStops. -/
def Obligations.StepFollowsItsRule : Prop :=
  ∀ s : State,
    step s =
      if (currentInput s).rst then afterTick (exec (.reset (currentInput s).start) s)
      else if s.ph = .idle ∨ s.ph = .done ∨ s.ph = .failed then
        if (currentInput s).start then afterTick (exec .decode s) else .next (endTick s)
      else if (currentInput s).start then .refused .startWhileBusy
      else afterTick (exec s.ph.instr s)

/-- A step runs the command that the decoder reads from the tick's `rst ++ start`, and `NOP` runs the
operation that the decoder reads from the code of `PH` (R78, R74, R24). What comes after the operation is
the model's own choice (log entry 3): the end of a tick moves the model's list of inputs on, so that the
inputs `k + 1` ticks ahead become those `k` ticks ahead, and it changes no register. -/
def Obligations.StepRunsTheDecodedOperation : Prop :=
  ∀ (s : State) (i : Instr),
    (decode .cmd (cmdWord (currentInput s).rst (currentInput s).start) = .ok i →
      i.wellFormed = true ∧ step s = afterTick (exec i s)) ∧
    (decode .phase s.ph.code = .ok i → i.wellFormed = true ∧ exec .nop s = exec i s) ∧
    sameRegisters s (endTick s) ∧ ∀ k, upcoming (endTick s) k = upcoming s (k + 1)

/-- R185, R189, R190: `IDLE`, `DONE` and `FAILED` change no register at a tick without a command, and what
the caller sees there, by the result (R34) and by the ports (R21, R76, R79). That such a tick moves the
environment on (`endTick`) is the model's own choice (log entry 3). -/
def Obligations.QuiescentPhasesHold : Prop :=
  ∀ s : State,
    exec .idle s = .next s ∧ exec .done s = .next s ∧ exec .failed s = .next s ∧
    (busy s = false → exec .nop s = .next s) ∧
    (busy s = false → (currentInput s).rst = false → (currentInput s).start = false →
      step s = .next (endTick s)) ∧
    (s.ph = .idle → result s = .pending) ∧
    (s.ph = .done → (outputs s).done = true ∧ (outputs s).humX10 = s.hum ∧ (outputs s).tempX10 = s.temp ∧
      result s = .done { temperature := (s.temp.toInt : ℚ) / 10, humidity := (s.hum.toNat : ℚ) / 10 }) ∧
    (s.ph = .failed → (outputs s).failed = true ∧
      ∀ k, s.err = some k → (outputs s).err = BitVec.ofNat 3 k.code ∧ result s = .failed k)

/-! ## The handshake -/

/-- R101: `HS_LOW`, both arms. -/
def Obligations.HsLowHoldsTheLineLow : Prop :=
  ∀ s : State,
    (elapsed s = s.cfg.tWake → s.lineOe = true →
      exec .hsLow s = .next { s with lineOut := true, tmr := 0, ph := .hsRel }) ∧
    (elapsed s ≠ s.cfg.tWake → exec .hsLow s = .next { s with tmr := s.tmr + 1 })

/-- R102: `HS_REL`, both arms. -/
def Obligations.HsRelHoldsTheLineHigh : Prop :=
  ∀ s : State,
    (elapsed s = s.cfg.tRelease →
      exec .hsRel s = .next { s with lineOe := false, tmr := 0, ph := .hsAck1 }) ∧
    (elapsed s ≠ s.cfg.tRelease → exec .hsRel s = .next { s with tmr := s.tmr + 1 })

/-- R103: `HS_ACK1`, its three arms. -/
def Obligations.HsAck1WaitsForLow : Prop :=
  ∀ s : State, s.lineOe = false →
    (lineIn s = false → exec .hsAck1 s = .next { s with tmr := 0, ph := .hsAck2 }) ∧
    (lineIn s = true → elapsed s = s.cfg.tAck →
      exec .hsAck1 s = .next (failureOf .noResponse s)) ∧
    (lineIn s = true → elapsed s ≠ s.cfg.tAck →
      exec .hsAck1 s = .next { s with tmr := s.tmr + 1 })

/-- R104: `HS_ACK2`, its three arms. -/
def Obligations.HsAck2WaitsForHigh : Prop :=
  ∀ s : State, s.lineOe = false →
    (lineIn s = true → exec .hsAck2 s = .next { s with tmr := 0, ph := .smWaitLow }) ∧
    (lineIn s = false → elapsed s = s.cfg.tAck →
      exec .hsAck2 s = .next (failureOf .protocolViolation s)) ∧
    (lineIn s = false → elapsed s ≠ s.cfg.tAck →
      exec .hsAck2 s = .next { s with tmr := s.tmr + 1 })

/-- R101, R102, R128, R277: a hold lasts exactly its number of ticks, with no register but `TMR` changing
until its last tick, whatever the line does. -/
def Obligations.HoldsLastExactly : Prop :=
  ∀ s : State, Invariant s → s.tmr = 0 → s.ph = .hsLow ∨ s.ph = .hsRel ∨ s.ph = .smGap →
    QuietFor (tmrBound s.cfg s.ph) s →
    (∀ k, k < tmrBound s.cfg s.ph →
      ∃ t, RunsTo k s t ∧ sameRegisters t { s with tmr := BitVec.ofNat 17 k }) ∧
    ∃ t, RunsTo (tmrBound s.cfg s.ph) s t ∧
      (s.ph = .hsLow → sameRegisters t { s with ph := .hsRel, lineOut := true }) ∧
      (s.ph = .hsRel → sameRegisters t { s with ph := .hsAck1, lineOe := false }) ∧
      (s.ph = .smGap → s.bitcnt.toNat = 40 → sameRegisters t { s with ph := .validate }) ∧
      (s.ph = .smGap → s.bitcnt.toNat < 40 → sameRegisters t { s with ph := .smWaitLow })

/-- R120: a bounded wait is satisfied at the first sample that reads the wanted level, provided its number
`e` is at most the bound: until then only `TMR` counts, and the wait is left at that tick. -/
def Obligations.BoundedWaitIsSatisfied : Prop :=
  ∀ (s : State) (w : Level) (bound : Nat) (kind : FailKind) (e : Nat),
    Invariant s → waitOf s.cfg s.ph = some (w, bound, kind) → s.tmr = 0 → 1 ≤ e → e ≤ bound →
    QuietFor e s → LineReads (!w) (e - 1) s → (upcoming s (e - 1)).lineIn = w →
    (∃ t, RunsTo (e - 1) s t ∧ sameRegisters t { s with tmr := BitVec.ofNat 17 (e - 1) } ∧
      elapsed t = e ∧ lineIn t = w) ∧
    ∀ p, afterWait s.ph = some p →
      ∃ t, RunsTo e s t ∧ sameRegisters t { s with tmr := 0, ph := p }

/-- R120: if the first `bound` samples all read the other level the wait fails at sample `bound`, at that
same tick and not before. -/
def Obligations.BoundedWaitExpires : Prop :=
  ∀ (s : State) (w : Level) (bound : Nat) (kind : FailKind),
    Invariant s → waitOf s.cfg s.ph = some (w, bound, kind) → s.tmr = 0 →
    QuietFor bound s → LineReads (!w) bound s →
    (∀ k, k < bound →
      ∃ t, RunsTo k s t ∧ sameRegisters t { s with tmr := BitVec.ofNat 17 k }) ∧
    ∃ t, RunsTo bound s t ∧ sameRegisters t (failureOf kind s)

/-- R105: the outcome of the handshake, from the tick after the switch to input: it succeeds when some
sample among the first 80 reads 0 and some sample among the 80 after the first such reads 1; it fails
with `NoResponse` or with `ProtocolViolation` otherwise. On every path, whatever the line does, the line is
in `Input` mode after every tick from there onward, for as long as the caller asks for nothing. -/
def Obligations.HandshakeOutcome : Prop :=
  ∀ s : State, Invariant s → s.ph = .hsAck1 → s.tmr = 0 → QuietFor (2 * s.cfg.tAck) s →
    (∀ n, QuietFor n s → ∃ t, RunsTo n s t ∧ t.lineOe = false) ∧
    (LineReads true s.cfg.tAck s →
      ∃ t, RunsTo s.cfg.tAck s t ∧ sameRegisters t (failureOf .noResponse s)) ∧
    (∀ a, 1 ≤ a → a ≤ s.cfg.tAck → LineReads true (a - 1) s → (upcoming s (a - 1)).lineIn = false →
      ((∀ k, k < s.cfg.tAck → (upcoming s (a + k)).lineIn = false) →
        ∃ t, RunsTo (a + s.cfg.tAck) s t ∧ sameRegisters t (failureOf .protocolViolation s)) ∧
      (∀ b, 1 ≤ b → b ≤ s.cfg.tAck → (∀ k, k < b - 1 → (upcoming s (a + k)).lineIn = false) →
        (upcoming s (a + b - 1)).lineIn = true →
        ∃ t, RunsTo (a + b) s t ∧ sameRegisters t { s with ph := .smWaitLow }))

/-- R231: if the line never reads low within the acknowledgment window, the attempt ends in `NoResponse`
at the tick `T_WAKE + T_RELEASE + T_ACK` of the attempt (tick 0 is the accepting tick), with no bit
sampled before. -/
def Obligations.NoResponseAtItsTick : Prop :=
  ∀ s : State, s.cfg.Conforming → busy s = false →
    (currentInput s).rst = false → (currentInput s).start = true →
    (∀ k, 1 ≤ k → k ≤ s.cfg.tWake + s.cfg.tRelease + s.cfg.tAck →
      (upcoming s k).rst = false ∧ (upcoming s k).start = false) →
    (∀ k, s.cfg.tWake + s.cfg.tRelease < k → k ≤ s.cfg.tWake + s.cfg.tRelease + s.cfg.tAck →
      (upcoming s k).lineIn = true) →
    (∀ n, n ≤ s.cfg.tWake + s.cfg.tRelease + s.cfg.tAck → 1 ≤ n →
      ∃ t, RunsTo n s t ∧ docState t.ph = .handshaking ∧ t.bitcnt = 0) ∧
    ∃ t, RunsTo (s.cfg.tWake + s.cfg.tRelease + s.cfg.tAck + 1) s t ∧
      t.ph = .failed ∧ t.err = some .noResponse ∧ t.tmr = 0 ∧ t.bitcnt = 0 ∧ t.f = Frame.zero ∧
      t.hum = 0 ∧ t.temp = 0 ∧ t.lineOe = false ∧ t.lineOut = true

/-! ## The sampler -/

/-- R121: `SM_WAITLOW`, its three arms. -/
def Obligations.SmWaitLowWaitsForLow : Prop :=
  ∀ s : State, s.lineOe = false →
    (lineIn s = false → exec .smWaitLow s = .next { s with tmr := 0, ph := .smWaitHigh }) ∧
    (lineIn s = true → elapsed s = s.cfg.tTimeout →
      exec .smWaitLow s = .next (failureOf .timeout s)) ∧
    (lineIn s = true → elapsed s ≠ s.cfg.tTimeout →
      exec .smWaitLow s = .next { s with tmr := s.tmr + 1 })

/-- R122: `SM_WAITHIGH`, its three arms. -/
def Obligations.SmWaitHighWaitsForHigh : Prop :=
  ∀ s : State, s.lineOe = false →
    (lineIn s = true → exec .smWaitHigh s = .next { s with tmr := 0, ph := .smMeasure }) ∧
    (lineIn s = false → elapsed s = s.cfg.tTimeout →
      exec .smWaitHigh s = .next (failureOf .timeout s)) ∧
    (lineIn s = false → elapsed s ≠ s.cfg.tTimeout →
      exec .smWaitHigh s = .next { s with tmr := s.tmr + 1 })

/-- R123: `SM_MEASURE`, all its arms. -/
def Obligations.SmMeasureTimesThePulse : Prop :=
  ∀ s : State, s.lineOe = false → s.bitcnt.toNat ≤ 39 →
    (∀ b, lineIn s = false → classify s.cfg (elapsed s) = (if b then .one else .zero) →
      ∃ v, s.f.get? (s.bitcnt.toNat / 8) = some v ∧
        exec .smMeasure s = .next
          { s with
            f := s.f.set (s.bitcnt.toNat / 8) (BitVec.ofNat 8 ((2 * v.toNat + bitNat b) % 256)),
            bitcnt := s.bitcnt + 1, tmr := 0, ph := .smGap }) ∧
    (lineIn s = false → classify s.cfg (elapsed s) = .error →
      exec .smMeasure s = .next (failureOf .measurement s)) ∧
    (lineIn s = true → elapsed s = s.cfg.tTimeout →
      exec .smMeasure s = .next (failureOf .timeout s)) ∧
    (lineIn s = true → elapsed s ≠ s.cfg.tTimeout →
      exec .smMeasure s = .next { s with tmr := s.tmr + 1 })

/-- The model's own choice (log entry 10), in states no run reaches: `SM_MEASURE` that reads the line low
with more than `T_TIMEOUT` ticks counted ends in `Timeout`, as an `OVERLONG` pulse does. -/
def Obligations.SmMeasurePastTheBound : Prop :=
  ∀ s : State, s.cfg.Conforming → s.lineOe = false → lineIn s = false →
    s.cfg.tTimeout < elapsed s → exec .smMeasure s = .next (failureOf .timeout s)

/-- R126: `Classify` on a conforming core, for every duration it is defined on, and the operation
`CLASSIFY`, which writes no register. That it hands the outcome of `TMR + 1` back in the field `value` is the
model's own choice (log entry 7). -/
def Obligations.ClassifyFollowsTheBands : Prop :=
  (∀ (c : Params) (e : Nat), c.Conforming → 1 ≤ e → e ≤ 100000 →
    (classify c e = .zero ↔ 26 ≤ e ∧ e ≤ 28) ∧
    (classify c e = .one ↔ 70 ≤ e) ∧
    (classify c e = .error ↔ e ≤ 25 ∨ 29 ≤ e ∧ e ≤ 69)) ∧
  ∀ s : State, exec .classify s =
    .next { s with value := .outcome (classify s.cfg (s.tmr.toNat + 1)) }

/-- R73: which symbol a duration selects; and what each symbol of the pulse alphabet does, for every duration
in its range: the writes of R123 and R151 for a bit, of R236 for a failure. That executing a symbol, in any
phase, is the tick which decides on such a pulse is the model's own choice (log entry 6), and so is a duration
of more than 17 bits (log entry 14). -/
def Obligations.PulseSymbolsActByWidth : Prop :=
  ∀ (s : State) (d : Nat), s.cfg.Conforming → s.bitcnt.toNat ≤ 39 →
    (1 ≤ d ∧ d ≤ 25 →
      decode .pulse d = .ok (.short d) ∧ exec (.short d) s = .next (failureOf .measurement s)) ∧
    (29 ≤ d ∧ d ≤ 69 →
      decode .pulse d = .ok (.ambiguous d) ∧ exec (.ambiguous d) s = .next (failureOf .measurement s)) ∧
    (100000 < d →
      decode .pulse d = .ok (.overlong d) ∧ exec (.overlong d) s = .next (failureOf .timeout s)) ∧
    ∃ v, s.f.get? (s.bitcnt.toNat / 8) = some v ∧
      (26 ≤ d ∧ d ≤ 28 → decode .pulse d = .ok (.zero d) ∧ exec (.zero d) s = .next
        { s with
          f := s.f.set (s.bitcnt.toNat / 8) (BitVec.ofNat 8 (2 * v.toNat % 256)),
          bitcnt := s.bitcnt + 1, tmr := 0, ph := .smGap }) ∧
      (70 ≤ d ∧ d ≤ 100000 → decode .pulse d = .ok (.one d) ∧ exec (.one d) s = .next
        { s with
          f := s.f.set (s.bitcnt.toNat / 8) (BitVec.ofNat 8 ((2 * v.toNat + 1) % 256)),
          bitcnt := s.bitcnt + 1, tmr := 0, ph := .smGap })

/-- A pulse symbol is what `SM_MEASURE` does at the tick that decides on a pulse of that duration, for
every duration from 1 on. -/
def Obligations.PulseIsItsDecidingTick : Prop :=
  ∀ (s : State) (d : Nat), s.cfg.Conforming → s.lineOe = false → 1 ≤ d →
    exec .smMeasure (presentPulse d s) = exec (pulseSymbol d) (presentPulse d s) ∧
    step (presentPulse d s) = afterTick (exec (pulseSymbol d) (presentPulse d s))

/-- R124: with the rise read by `SM_WAITHIGH` at one tick and the fall `e` ticks later, the duration that
`SM_MEASURE` classifies is `e`; R125: a pulse still high `T_TIMEOUT` ticks after the rise ends in
`Timeout` there. -/
def Obligations.PulseDurationIsMeasured : Prop :=
  ∀ s : State, Invariant s → s.ph = .smWaitHigh → (upcoming s 0).lineIn = true →
    (∀ e, 1 ≤ e → e ≤ s.cfg.tTimeout → QuietFor (e + 1) s → LineReads true e s →
      (upcoming s e).lineIn = false →
      ∃ t, RunsTo e s t ∧ t.ph = .smMeasure ∧ elapsed t = e ∧
        ((∃ u, RunsTo (e + 1) s u ∧ u.ph = .smGap ∧ u.bitcnt = s.bitcnt + 1) ↔
          26 ≤ e ∧ e ≤ 28 ∨ 70 ≤ e) ∧
        ((∃ u, RunsTo (e + 1) s u ∧ sameRegisters u (failureOf .measurement s)) ↔
          e ≤ 25 ∨ 29 ≤ e ∧ e ≤ 69)) ∧
    (QuietFor (s.cfg.tTimeout + 1) s → LineReads true (s.cfg.tTimeout + 1) s →
      ∃ u, RunsTo (s.cfg.tTimeout + 1) s u ∧ sameRegisters u (failureOf .timeout s))

/-- R128: `SM_GAP`, its arms. -/
def Obligations.SmGapHoldsAndLoops : Prop :=
  ∀ s : State,
    (elapsed s = s.cfg.tGap → s.bitcnt.toNat = s.cfg.nBits →
      exec .smGap s = .next { s with tmr := 0, ph := .validate }) ∧
    (elapsed s = s.cfg.tGap → s.bitcnt.toNat ≠ s.cfg.nBits →
      exec .smGap s = .next { s with tmr := 0, ph := .smWaitLow }) ∧
    (elapsed s ≠ s.cfg.tGap → exec .smGap s = .next { s with tmr := s.tmr + 1 })

/-- R273: the inter-bit delay swallows a pulse whose low run is shorter than `T_GAP + 2`: from the tick
after the fall of one pulse, with the line low for `l − 1` more ticks, then high for `w`, then low, the
core is waiting for the rise after that pulse, and has shifted nothing in. -/
def Obligations.ShortLowRunSwallowsAPulse : Prop :=
  ∀ (s : State) (l w : Nat), Invariant s → s.ph = .smGap → s.tmr = 0 → s.bitcnt.toNat < 40 →
    1 ≤ l → l < s.cfg.tGap + 2 → s.cfg.tGap + 2 ≤ l + w → l + w ≤ s.cfg.tGap + s.cfg.tTimeout →
    QuietFor (l + w) s →
    (∀ k, l - 1 ≤ k → k < l - 1 + w → (upcoming s k).lineIn = true) →
    (upcoming s (l - 1 + w)).lineIn = false →
    ∃ t, RunsTo (l + w) s t ∧ sameRegisters t { s with ph := .smWaitHigh }

/-- R130, R131: a line that carries a frame within the bounds is decoded as intended. From the first tick
of `SM_WAITLOW` with an empty frame, the line high for `h` more samples, then forty legal pulses of the
frame `f`, then low: `PH` becomes `VALIDATE` `T_GAP` ticks after the fall of the last pulse, with the
frame in `F`; and at the next tick the attempt ends, in the reading of `f` if its checksum holds and in
`ChecksumError` if not. -/
def Obligations.LegalLineIsDecoded : Prop :=
  ∀ (s : State) (f : Frame) (ps : List Pulse) (h : Nat) (rest : List Inputs),
    Invariant s → s.ph = .smWaitLow → s.tmr = 0 → s.bitcnt = 0 →
    LegalPulses s.cfg f ps → h < s.cfg.tTimeout →
    s.inputs = quietInputs (levels (high h :: pulseRuns ps ++ [low 1])) ++ rest →
    QuietFor (h + pulseTicks ps + 1 + s.cfg.tGap + 1) s →
    (∃ t, RunsTo (h + pulseTicks ps + 1 + s.cfg.tGap) s t ∧
      t.ph = .validate ∧ t.bitcnt.toNat = 40 ∧ t.f = f) ∧
    ∃ t, RunsTo (h + pulseTicks ps + 1 + s.cfg.tGap + 1) s t ∧
      (checksumOk f = true → t.ph = .done ∧ t.hum = convHum f ∧ t.temp = convTemp f) ∧
      (checksumOk f = false → t.ph = .failed ∧ t.err = some .checksumError)

/-! ## The frame -/

/-- R151: `SHIFT_IN`, with the other four bytes unchanged. -/
def Obligations.ShiftInPacksABit : Prop :=
  ∀ (s : State) (b : Bool), s.bitcnt.toNat ≤ 39 →
    ∃ v t, s.f.get? (s.bitcnt.toNat / 8) = some v ∧
      exec (.shiftIn b) s = .next t ∧
      t = { s with f := t.f, bitcnt := s.bitcnt + 1 } ∧
      t.f.get? (s.bitcnt.toNat / 8) = some (BitVec.ofNat 8 ((2 * v.toNat + bitNat b) % 256)) ∧
      ∀ i, i ≠ s.bitcnt.toNat / 8 → t.f.get? i = s.f.get? i

/-- The model's own choices (log entries 10 and 12), in states no run reaches: past the fortieth bit there is
no byte for `SHIFT_IN` to write; a phase that reads the line stops in `Output` mode, and the last tick of
`HS_LOW`, which writes it, in `Input` mode. -/
def Obligations.StatesOutsideTheMachineStop : Prop :=
  ∀ s : State,
    (∀ b, 40 ≤ s.bitcnt.toNat → exec (.shiftIn b) s = .fault .frameByteAbsent) ∧
    (readsLine s.ph = true → s.lineOe = true → exec s.ph.instr s = .refused .readInOutputMode) ∧
    (elapsed s = s.cfg.tWake → s.lineOe = false → exec .hsLow s = .refused .writeInInputMode)

/-- R152: forty `SHIFT_IN`s into an empty frame. -/
def Obligations.FortyShiftsFillTheFrame : Prop :=
  ∀ (s : State) (bits : List Bool), bits.length = 40 → s.bitcnt = 0 → s.f = Frame.zero →
    ∃ t, shiftAll bits s = .next t ∧ t.bitcnt.toNat = 40 ∧
      ∀ i v, t.f.get? i = some v →
        v.toNat = ((List.range 8).map fun j => bitNat (bits.getD (8 * i + j) false) * 2 ^ (7 - j)).sum

/-- R53: the frame as one 40-bit word: its bits in the order of the line, its fields, and the shift of
each bit into its least significant end. -/
def Obligations.FrameIsOneWord : Prop :=
  (∀ (s : State) (bits : List Bool) (t : State), bits.length = 40 → s.bitcnt = 0 → s.f = Frame.zero →
    shiftAll bits s = .next t →
    t.f.word = bits.foldl (fun (w : BitVec 40) b => (w <<< 1) ||| BitVec.ofNat 40 (bitNat b)) 0 ∧
    t.f.bits = bits ∧ ∀ k, k < 40 → t.f.word.getLsbD (39 - k) = bits.getD k false) ∧
  ∀ f : Frame,
    f.word.extractLsb' 24 16 = f.humidity ∧ f.word.getLsbD 23 = f.negative ∧
    f.word.extractLsb' 8 15 = f.magnitude ∧ f.word.extractLsb' 0 8 = f.f4

/-- R153: the checksum relation, and what `VALIDATE` does with a frame that does not meet it. That `CHECKSUM`
executed on its own hands the answer back in the field `value` is the model's own choice (log entry 7). -/
def Obligations.ChecksumComparesTheLowByte : Prop :=
  ∀ s : State,
    exec .checksum s = .next { s with value := .valid (checksumOk s.f) } ∧
    (checksumOk s.f = true ↔
      (s.f.f0.toNat + s.f.f1.toNat + s.f.f2.toNat + s.f.f3.toNat) % 256 = s.f.f4.toNat) ∧
    (checksumOk s.f = false →
      exec .validate s = .next
        { s with ph := .failed, err := some .checksumError, tmr := 0, bitcnt := 0, f := Frame.zero })

/-! ## The converter and the end of an attempt -/

/-- R166: `CONV_HUM`. -/
def Obligations.ConvHumAssemblesHumidity : Prop :=
  ∀ s : State, ∃ v : Tenths, exec .convHum s = .next { s with hum := v } ∧
    v.toNat = 256 * s.f.f0.toNat + s.f.f1.toNat

/-- R167: `CONV_TEMP`: sign and magnitude to two's complement, and 0x8000 is never produced. -/
def Obligations.ConvTempAppliesTheSign : Prop :=
  ∀ s : State, ∃ v : Tenths, exec .convTemp s = .next { s with temp := v } ∧
    (s.f.f2.toNat < 128 → v.toInt = 256 * s.f.f2.toNat + s.f.f3.toNat) ∧
    (128 ≤ s.f.f2.toNat → v.toInt = -(256 * (s.f.f2.toNat - 128 : Int) + s.f.f3.toNat)) ∧
    v ≠ 0x8000#16

/-- R188: `VALIDATE`. -/
def Obligations.ValidateConvertsOrFails : Prop :=
  ∀ s : State,
    (checksumOk s.f = true →
      exec .validate s = .next
        { s with
          hum := convHum s.f, temp := convTemp s.f, ph := .done, tmr := 0, bitcnt := 0,
          f := Frame.zero }) ∧
    (checksumOk s.f = false → exec .validate s = .next (failureOf .checksumError s))

/-- R168: for every valid frame the reading is `256·b0 + b1` and `s · (256·(b2 mod 128) + b3)` tenths,
exactly; and what the caller sees is that reading. -/
def Obligations.ValidFramesConvertExactly : Prop :=
  ∀ (s : State) (sgn : Int),
    (s.f.f0.toNat + s.f.f1.toNat + s.f.f2.toNat + s.f.f3.toNat) % 256 = s.f.f4.toNat →
    sgn = (if 128 ≤ s.f.f2.toNat then -1 else 1) →
    ∃ t, exec .validate s = .next t ∧
      t.hum.toNat = 256 * s.f.f0.toNat + s.f.f1.toNat ∧
      t.temp.toInt = sgn * (256 * (s.f.f2.toNat % 128 : Nat) + s.f.f3.toNat) ∧
      result t = .done
        { temperature := (sgn * (256 * (s.f.f2.toNat % 128 : Nat) + s.f.f3.toNat) : Int) / 10,
          humidity := (256 * s.f.f0.toNat + s.f.f1.toNat : Nat) / 10 }

/-- R71, R72: a transmission with the fields `h`, `sign`, `m`, `c` gives the reading of those fields if its
checksum holds and fails with `ChecksumError` if not (R153, R188). That executing `FRAME` is the tick which
decides on it is the model's own choice (log entry 6). -/
def Obligations.FrameFieldsDecideTheReading : Prop :=
  ∀ (s : State) (h : BitVec 16) (sign : Bool) (m : BitVec 15) (c : Byte),
    (((h.toNat / 256 + h.toNat % 256 + (128 * bitNat sign + m.toNat / 256) + m.toNat % 256) % 256 =
        c.toNat) →
      ∃ v : Tenths, v.toInt = (if sign then -(m.toNat : Int) else m.toNat) ∧
        exec (.frame h sign m c) s = .next
          { s with hum := h, temp := v, ph := .done, tmr := 0, bitcnt := 0, f := Frame.zero }) ∧
    (((h.toNat / 256 + h.toNat % 256 + (128 * bitNat sign + m.toNat / 256) + m.toNat % 256) % 256 ≠
        c.toNat) →
      exec (.frame h sign m c) s = .next (failureOf .checksumError s))

/-- R236: `raise Fail(kind)`, with the kind as operand and for each of the five kinds, and the status it
leaves. -/
def Obligations.FailWritesItsRegisters : Prop :=
  ∀ s : State,
    (∀ k, exec (.fail k) s = .next
      { s with ph := .failed, err := some k, tmr := 0, bitcnt := 0, f := Frame.zero }) ∧
    exec .failNoResponse s = .next
      { s with ph := .failed, err := some .noResponse, tmr := 0, bitcnt := 0, f := Frame.zero } ∧
    exec .failProtocolViolation s = .next
      { s with ph := .failed, err := some .protocolViolation, tmr := 0, bitcnt := 0, f := Frame.zero } ∧
    exec .failTimeout s = .next
      { s with ph := .failed, err := some .timeout, tmr := 0, bitcnt := 0, f := Frame.zero } ∧
    exec .failMeasurement s = .next
      { s with ph := .failed, err := some .measurement, tmr := 0, bitcnt := 0, f := Frame.zero } ∧
    exec .failChecksumError s = .next
      { s with ph := .failed, err := some .checksumError, tmr := 0, bitcnt := 0, f := Frame.zero } ∧
    ∀ k t, exec (.fail k) s = .next t →
      (outputs t).failed = true ∧ (outputs t).busy = false ∧ (outputs t).err = BitVec.ofNat 3 k.code

/-- R230 to R235: the cause of each failure: a tick of a running attempt ends in `FAILED` with a kind
exactly where that kind's cause holds. -/
def Obligations.EachFailureHasItsCause : Prop :=
  ∀ s t : State, Invariant s → busy s = true → (currentInput s).rst = false → step s = .next t →
    (t.err = some .noResponse ↔ s.ph = .hsAck1 ∧ lineIn s = true ∧ elapsed s = s.cfg.tAck) ∧
    (t.err = some .protocolViolation ↔
      s.ph = .hsAck2 ∧ lineIn s = false ∧ elapsed s = s.cfg.tAck) ∧
    (t.err = some .timeout ↔
      elapsed s = s.cfg.tTimeout ∧
        (s.ph = .smWaitLow ∧ lineIn s = true ∨ s.ph = .smWaitHigh ∧ lineIn s = false ∨
          s.ph = .smMeasure ∧ lineIn s = true)) ∧
    (t.err = some .measurement ↔
      s.ph = .smMeasure ∧ lineIn s = false ∧
        (elapsed s ≤ 25 ∨ 29 ≤ elapsed s ∧ elapsed s ≤ 69)) ∧
    (t.err = some .checksumError ↔
      s.ph = .validate ∧
        (s.f.f0.toNat + s.f.f1.toNat + s.f.f2.toNat + s.f.f3.toNat) % 256 ≠ s.f.f4.toNat)

/-- R237: `Done` is reached only through a frame whose checksum held, with the reading of that frame; and
a failure is never a reading. -/
def Obligations.ReadingOnlyFromAValidFrame : Prop :=
  ∀ s t : State, Invariant s → step s = .next t →
    (t.ph = .done → s.ph ≠ .done →
      s.ph = .validate ∧ checksumOk s.f = true ∧
        result t = .done (readingOf (convHum s.f) (convTemp s.f))) ∧
    (t.ph = .failed → (outputs t).done = false ∧ ∃ k, t.err = some k ∧ result t = .failed k) ∧
    (t.ph = .done → s.ph = .done → t.hum = s.hum ∧ t.temp = s.temp)

/-! ## The line operations -/

/-- R210 to R214 with U2: the line operations where they are valid, and their refusal where they are not (log
entry 12). That `READ_LEVEL` executed on its own hands the level back in the field `value` is the model's own
choice (log entry 7). -/
def Obligations.LineOperationsActOnThePorts : Prop :=
  ∀ s : State,
    exec .setdirOut s = .next { s with lineOe := true } ∧
    exec .setdirIn s = .next { s with lineOe := false } ∧
    (s.lineOe = true →
      exec .writeLow s = .next { s with lineOut := false } ∧
      exec .writeHigh s = .next { s with lineOut := true } ∧
      exec .readLevel s = .refused .readInOutputMode) ∧
    (s.lineOe = false →
      exec .readLevel s = .next { s with value := .level (currentInput s).lineIn } ∧
      exec .writeLow s = .refused .writeInInputMode ∧
      exec .writeHigh s = .refused .writeInInputMode)

/-- R215, R216, R40 (c): a tick of the core changes the line's registers by the line operations it issues, in
their order, each used in the mode in which it is valid; `LINE_OE` is 1 after a tick that writes. -/
def Obligations.TicksIssueTheirLineOperations : Prop :=
  ∀ s t : State, Invariant s → (currentInput s).rst = false → step s = .next t →
    (∃ u, runLineOps (lineOpsOfTick s) s = .next u ∧ t.lineOe = u.lineOe ∧ t.lineOut = u.lineOut) ∧
    (.readLevel ∈ lineOpsOfTick s ↔ readsLine s.ph = true) ∧
    (.setdirOut ∈ lineOpsOfTick s ↔ t.ph = .hsLow ∧ s.ph ≠ .hsLow) ∧
    (.writeLow ∈ lineOpsOfTick s ↔ t.ph = .hsLow ∧ s.ph ≠ .hsLow) ∧
    (.writeHigh ∈ lineOpsOfTick s ↔ t.ph = .hsRel ∧ s.ph ≠ .hsRel) ∧
    (.setdirIn ∈ lineOpsOfTick s ↔ t.ph = .hsAck1 ∧ s.ph ≠ .hsAck1) ∧
    (.writeLow ∈ lineOpsOfTick s ∨ .writeHigh ∈ lineOpsOfTick s → t.lineOe = true)

/-- R22, U4, U5: in a phase that does not read the line, its level has no effect. -/
def Obligations.LineIsIgnoredWhereNotRead : Prop :=
  ∀ (s : State) (rst start a b : Bool),
    readsLine s.ph = false ∨ rst = true →
    step (present { rst := rst, start := start, lineIn := a } s) =
      step (present { rst := rst, start := start, lineIn := b } s)

/-! ## What is left unchanged -/

/-- The frame of the phases and of `NOP`: what a phase's tick leaves as it was. -/
def Obligations.PhasesChangeOnlyTheirRegisters : Prop :=
  ∀ (i : Instr) (s t : State),
    i = .nop ∨ i = s.ph.instr → exec i s = .next t →
    t.cfg = s.cfg ∧ t.inputs = s.inputs ∧ t.tick = s.tick ∧ t.value = s.value ∧
    (s.ph ≠ .validate → t.hum = s.hum ∧ t.temp = s.temp) ∧
    (t.ph ≠ .failed → t.err = s.err) ∧
    (s.ph ≠ .hsRel → t.lineOe = s.lineOe) ∧
    (s.ph ≠ .hsLow → t.lineOut = s.lineOut) ∧
    (t.ph ≠ .failed → s.ph ≠ .validate → s.ph ≠ .smMeasure → t.bitcnt = s.bitcnt ∧ t.f = s.f) ∧
    (s.ph = .smMeasure → t.ph ≠ .failed →
      ∀ a, a ≠ frameIndex s ∨ t.ph = .smMeasure → t.f.get? a = s.f.get? a) ∧
    (t.ph = .failed → s.ph ≠ .failed → t.err ≠ none ∧ t.tmr = 0 ∧ t.bitcnt = 0 ∧ t.f = Frame.zero)

/-- The frame of the pulse symbols, executed as log entry 6 says (the model's own choice): the registers that
no pulse changes, and the one byte it stores to. -/
def Obligations.PulsesChangeOnlyTheirRegisters : Prop :=
  ∀ (i : Instr) (d : Nat) (s t : State),
    i = .short d ∨ i = .zero d ∨ i = .ambiguous d ∨ i = .one d ∨ i = .overlong d →
    exec i s = .next t →
    t.hum = s.hum ∧ t.temp = s.temp ∧ t.lineOe = s.lineOe ∧ t.lineOut = s.lineOut ∧
    t.cfg = s.cfg ∧ t.inputs = s.inputs ∧ t.tick = s.tick ∧ t.value = s.value ∧
    (t.ph = .smGap → t.err = s.err ∧ ∀ a, a ≠ frameIndex s → t.f.get? a = s.f.get? a) ∧
    (t.ph ≠ .smGap → t.ph = .failed ∧ t.f = Frame.zero)

/-- R33, R62: nothing changes a parameter while the core runs: no operation, and no tick. -/
def Obligations.ParametersNeverChange : Prop :=
  (∀ (i : Instr) (s t : State), exec i s = .next t → t.cfg = s.cfg) ∧
  (∀ s t : State, step s = .next t → t.cfg = s.cfg) ∧
  ∀ (n : Nat) (s t : State), RunsTo n s t → t.cfg = s.cfg

/-- No operation reads ahead of, or uses up, the environment's inputs; only the end of a tick does. -/
def Obligations.OperationsLeaveTheEnvironment : Prop :=
  ∀ (i : Instr) (s t : State), exec i s = .next t → t.inputs = s.inputs ∧ t.tick = s.tick

/-! ## Whole-machine rules -/

/-- R40 at reset. -/
def Obligations.ResetStateMeetsTheInvariant : Prop := Invariant State.reset

/-- R40: every tick keeps the invariant, from every state that meets it. -/
def Obligations.EveryTickKeepsTheInvariant : Prop :=
  ∀ s t : State, Invariant s → step s = .next t → Invariant t

/-- R180: the step function is total except for the refused arm: no fault and no other refusal stops the
core in a state that meets the invariant. -/
def Obligations.OnlyStartWhileBusyStops : Prop :=
  ∀ s : State, Invariant s →
    ((∃ t, step s = .next t) ↔
      ¬ ((currentInput s).rst = false ∧ (currentInput s).start = true ∧ busy s = true))

/-- R78: `NOP` runs the rule of the current phase, and in every state that meets the invariant that rule
has a next state. -/
def Obligations.NopRunsThePhaseRule : Prop :=
  ∀ s : State, Invariant s → ∃ t, exec .nop s = .next t ∧ exec s.ph.instr s = .next t

/-- R181: every transfer of control is one of its table's; with `rst` = 1 the core goes to `IDLE`; and
`TMR` is 0 after every change of phase (R25). -/
def Obligations.TransfersOfControl : Prop :=
  ∀ s t : State, step s = .next t →
    ((currentInput s).rst = true → t.ph = .idle) ∧
    ((currentInput s).rst = false → t.ph = s.ph ∨ (s.ph, t.ph) ∈ transfers) ∧
    (t.ph ≠ s.ph → t.tmr = 0)

/-- R32: exactly one of idle, busy, done, failed holds at any time. -/
def Obligations.OneStatusAtATime : Prop :=
  ∀ s : State,
    [s.ph == .idle, (outputs s).busy, (outputs s).done, (outputs s).failed].count true = 1

/-- R17: every attempt ends: accepted at tick 0, it is in `DONE` or `FAILED` after a tick numbered at most
`T_WAKE + T_RELEASE + 2·T_ACK + N_BITS·(3·T_TIMEOUT + T_GAP) + 1`, whatever the line does. -/
def Obligations.EveryAttemptEnds : Prop :=
  lastTick Params.standard = 12020191 ∧
  ∀ s : State, s.cfg.Conforming → busy s = false →
    (currentInput s).rst = false → (currentInput s).start = true →
    (∀ k, 1 ≤ k → k ≤ lastTick s.cfg → (upcoming s k).rst = false ∧ (upcoming s k).start = false) →
    ∃ n t, 1 ≤ n ∧ n ≤ lastTick s.cfg ∧ RunsTo (n + 1) s t ∧ (t.ph = .done ∨ t.ph = .failed)

/-- R191: attempts are independent: two cores of one build, in any two states that are not busy, that
accept a `DECODE` at the same tick and then get the same inputs, are in equal states at equal offsets. -/
def Obligations.AttemptsAreIndependent : Prop :=
  ∀ (s₁ s₂ : State) (n : Nat), busy s₁ = false → busy s₂ = false → s₁.cfg = s₂.cfg →
    (currentInput s₁).rst = false → (currentInput s₁).start = true →
    (∀ k, k < n + 1 → upcoming s₁ k = upcoming s₂ k) →
    ∀ t₁, RunsTo (n + 1) s₁ t₁ → ∃ t₂, RunsTo (n + 1) s₂ t₂ ∧ sameRegisters t₁ t₂

/-! ## Encoding -/

/-- Decode and encode agree: every well-formed operation that has a code of its own is read back from it,
with every operand at every value. -/
def Obligations.DecodeReadsBackEncode : Prop :=
  ∀ (i : Instr) (c : Code), i.wellFormed = true → encode i = some c →
    decode c.fmt c.word = .ok i.canonical

/-- Each word of a format has one meaning: what the decoder reads is well-formed and encodes to that very
word. -/
def Obligations.EncodeGivesBackTheWord : Prop :=
  ∀ (fmt : Format) (w : Nat) (i : Instr), decode fmt w = .ok i →
    i.wellFormed = true ∧ encode i = some ⟨fmt, w⟩

/-- The words that are no operation are rejected, each by its name. R81 (f): the unused codes of `PHASE`,
`FAIL` and `LINEOP`. R76: the code 0 of `ERR` is `None`, which is no failure. That a pulse of no tick is a word
the decoder rejects is the model's own choice (log entry 14), from R73's `e` ≥ 1. -/
def Obligations.UnusedCodesAreRejected : Prop :=
  (∀ w, 12 ≤ w → w ≤ 15 → decode .phase w = .error .unusedPhase) ∧
  (∀ w, 6 ≤ w → w ≤ 7 → decode .fail w = .error .unusedFail) ∧
  (∀ w, 5 ≤ w → w ≤ 7 → decode .lineop w = .error .unusedLineOp) ∧
  decode .fail 0 = .error .noFailure ∧ decode .pulse 0 = .error .emptyPulse

/-- Words of each format, written out from the tables of R71, R73, R74, R76, R77 and R78. -/
def Obligations.WordsOfEachFormatDecode : Prop :=
  decode .cmd 0b01 = .ok .decode ∧ decode .cmd 0b11 = .ok (.reset true) ∧
  decode .phase 0b0111 = .ok .smMeasure ∧ decode .phase 0b1001 = .ok .validate ∧
  decode .pulse 27 = .ok (.zero 27) ∧ decode .pulse 100000 = .ok (.one 100000) ∧
  decode .pulse 100001 = .ok (.overlong 100001) ∧
  decode .fail 0b101 = .ok .failChecksumError ∧ decode .lineop 0b011 = .ok .writeHigh ∧
  decode .frame 0x0200800587 = .ok (.frame 512 true 5 0x87)

/-! ## The ports -/

/-- R21, R76, R79: what every output port shows, in every state; the result as the ports carry it; and that
an output is a function of registers alone. -/
def Obligations.PortsShowTheRegisters : Prop :=
  (∀ s : State,
    (outputs s).lineOe = s.lineOe ∧ (outputs s).lineOut = s.lineOut ∧
    ((outputs s).busy = true ↔ s.ph ≠ .idle ∧ s.ph ≠ .done ∧ s.ph ≠ .failed) ∧
    ((outputs s).done = true ↔ s.ph = .done) ∧ ((outputs s).failed = true ↔ s.ph = .failed) ∧
    (outputs s).humX10 = s.hum ∧ (outputs s).tempX10 = s.temp ∧
    (s.err = none → (outputs s).err = 0b000) ∧
    (s.err = some .noResponse → (outputs s).err = 0b001) ∧
    (s.err = some .protocolViolation → (outputs s).err = 0b010) ∧
    (s.err = some .timeout → (outputs s).err = 0b011) ∧
    (s.err = some .measurement → (outputs s).err = 0b100) ∧
    (s.err = some .checksumError → (outputs s).err = 0b101) ∧
    ((outputs s).done = true → ∃ r, result s = .done r ∧
      ((outputs s).humX10.toNat : ℚ) = 10 * r.humidity ∧
      ((outputs s).tempX10.toInt : ℚ) = 10 * r.temperature) ∧
    ((outputs s).failed = true → ∀ k, s.err = some k → result s = .failed k) ∧
    ((outputs s).done = false → (outputs s).failed = false → result s = .pending)) ∧
  ∀ s t : State, sameRegisters s t → outputs s = outputs t
end

