-- ==== Sys2Proof/Laws/State.lean ====
section
/-! SUPPORT. One lemma for each field of `State` under each shared update, true by `rfl`, so that no proof
unfolds a record update. -/

namespace Sys2Proof.Machine

/-! ### `lineDir` -/

@[simp] theorem lineDir_ph (d : Dir) (s : State) : (lineDir d s).ph = s.ph := rfl
@[simp] theorem lineDir_tmr (d : Dir) (s : State) : (lineDir d s).tmr = s.tmr := rfl
@[simp] theorem lineDir_bitcnt (d : Dir) (s : State) : (lineDir d s).bitcnt = s.bitcnt := rfl
@[simp] theorem lineDir_f (d : Dir) (s : State) : (lineDir d s).f = s.f := rfl
@[simp] theorem lineDir_err (d : Dir) (s : State) : (lineDir d s).err = s.err := rfl
@[simp] theorem lineDir_hum (d : Dir) (s : State) : (lineDir d s).hum = s.hum := rfl
@[simp] theorem lineDir_temp (d : Dir) (s : State) : (lineDir d s).temp = s.temp := rfl
@[simp] theorem lineDir_lineOe (d : Dir) (s : State) : (lineDir d s).lineOe = (d == .output) := rfl
@[simp] theorem lineDir_lineOut (d : Dir) (s : State) : (lineDir d s).lineOut = s.lineOut := rfl
@[simp] theorem lineDir_cfg (d : Dir) (s : State) : (lineDir d s).cfg = s.cfg := rfl
@[simp] theorem lineDir_inputs (d : Dir) (s : State) : (lineDir d s).inputs = s.inputs := rfl
@[simp] theorem lineDir_tick (d : Dir) (s : State) : (lineDir d s).tick = s.tick := rfl
@[simp] theorem lineDir_value (d : Dir) (s : State) : (lineDir d s).value = s.value := rfl

/-! ### `enterPhase` -/

@[simp] theorem enterPhase_ph (p : Phase) (s : State) : (enterPhase p s).ph = p := rfl
@[simp] theorem enterPhase_tmr (p : Phase) (s : State) : (enterPhase p s).tmr = 0 := rfl
@[simp] theorem enterPhase_bitcnt (p : Phase) (s : State) : (enterPhase p s).bitcnt = s.bitcnt := rfl
@[simp] theorem enterPhase_f (p : Phase) (s : State) : (enterPhase p s).f = s.f := rfl
@[simp] theorem enterPhase_err (p : Phase) (s : State) : (enterPhase p s).err = s.err := rfl
@[simp] theorem enterPhase_hum (p : Phase) (s : State) : (enterPhase p s).hum = s.hum := rfl
@[simp] theorem enterPhase_temp (p : Phase) (s : State) : (enterPhase p s).temp = s.temp := rfl
@[simp] theorem enterPhase_lineOe (p : Phase) (s : State) : (enterPhase p s).lineOe = s.lineOe := rfl
@[simp] theorem enterPhase_lineOut (p : Phase) (s : State) : (enterPhase p s).lineOut = s.lineOut := rfl
@[simp] theorem enterPhase_cfg (p : Phase) (s : State) : (enterPhase p s).cfg = s.cfg := rfl
@[simp] theorem enterPhase_inputs (p : Phase) (s : State) : (enterPhase p s).inputs = s.inputs := rfl
@[simp] theorem enterPhase_tick (p : Phase) (s : State) : (enterPhase p s).tick = s.tick := rfl
@[simp] theorem enterPhase_value (p : Phase) (s : State) : (enterPhase p s).value = s.value := rfl

/-! ### `countTick` -/

@[simp] theorem countTick_ph (s : State) : (countTick s).ph = s.ph := rfl
@[simp] theorem countTick_tmr (s : State) : (countTick s).tmr = s.tmr + 1 := rfl
@[simp] theorem countTick_bitcnt (s : State) : (countTick s).bitcnt = s.bitcnt := rfl
@[simp] theorem countTick_f (s : State) : (countTick s).f = s.f := rfl
@[simp] theorem countTick_err (s : State) : (countTick s).err = s.err := rfl
@[simp] theorem countTick_hum (s : State) : (countTick s).hum = s.hum := rfl
@[simp] theorem countTick_temp (s : State) : (countTick s).temp = s.temp := rfl
@[simp] theorem countTick_lineOe (s : State) : (countTick s).lineOe = s.lineOe := rfl
@[simp] theorem countTick_lineOut (s : State) : (countTick s).lineOut = s.lineOut := rfl
@[simp] theorem countTick_cfg (s : State) : (countTick s).cfg = s.cfg := rfl
@[simp] theorem countTick_inputs (s : State) : (countTick s).inputs = s.inputs := rfl
@[simp] theorem countTick_tick (s : State) : (countTick s).tick = s.tick := rfl
@[simp] theorem countTick_value (s : State) : (countTick s).value = s.value := rfl

/-! ### `clearTransient` -/

@[simp] theorem clearTransient_ph (s : State) : (clearTransient s).ph = s.ph := rfl
@[simp] theorem clearTransient_tmr (s : State) : (clearTransient s).tmr = 0 := rfl
@[simp] theorem clearTransient_bitcnt (s : State) : (clearTransient s).bitcnt = 0 := rfl
@[simp] theorem clearTransient_f (s : State) : (clearTransient s).f = Frame.zero := rfl
@[simp] theorem clearTransient_err (s : State) : (clearTransient s).err = s.err := rfl
@[simp] theorem clearTransient_hum (s : State) : (clearTransient s).hum = s.hum := rfl
@[simp] theorem clearTransient_temp (s : State) : (clearTransient s).temp = s.temp := rfl
@[simp] theorem clearTransient_lineOe (s : State) : (clearTransient s).lineOe = s.lineOe := rfl
@[simp] theorem clearTransient_lineOut (s : State) : (clearTransient s).lineOut = s.lineOut := rfl
@[simp] theorem clearTransient_cfg (s : State) : (clearTransient s).cfg = s.cfg := rfl
@[simp] theorem clearTransient_inputs (s : State) : (clearTransient s).inputs = s.inputs := rfl
@[simp] theorem clearTransient_tick (s : State) : (clearTransient s).tick = s.tick := rfl
@[simp] theorem clearTransient_value (s : State) : (clearTransient s).value = s.value := rfl

/-! ### `raiseFail` -/

@[simp] theorem raiseFail_ph (k : FailKind) (s : State) : (raiseFail k s).ph = .failed := rfl
@[simp] theorem raiseFail_tmr (k : FailKind) (s : State) : (raiseFail k s).tmr = 0 := rfl
@[simp] theorem raiseFail_bitcnt (k : FailKind) (s : State) : (raiseFail k s).bitcnt = 0 := rfl
@[simp] theorem raiseFail_f (k : FailKind) (s : State) : (raiseFail k s).f = Frame.zero := rfl
@[simp] theorem raiseFail_err (k : FailKind) (s : State) : (raiseFail k s).err = some k := rfl
@[simp] theorem raiseFail_hum (k : FailKind) (s : State) : (raiseFail k s).hum = s.hum := rfl
@[simp] theorem raiseFail_temp (k : FailKind) (s : State) : (raiseFail k s).temp = s.temp := rfl
@[simp] theorem raiseFail_lineOe (k : FailKind) (s : State) : (raiseFail k s).lineOe = s.lineOe := rfl
@[simp] theorem raiseFail_lineOut (k : FailKind) (s : State) : (raiseFail k s).lineOut = s.lineOut := rfl
@[simp] theorem raiseFail_cfg (k : FailKind) (s : State) : (raiseFail k s).cfg = s.cfg := rfl
@[simp] theorem raiseFail_inputs (k : FailKind) (s : State) : (raiseFail k s).inputs = s.inputs := rfl
@[simp] theorem raiseFail_tick (k : FailKind) (s : State) : (raiseFail k s).tick = s.tick := rfl
@[simp] theorem raiseFail_value (k : FailKind) (s : State) : (raiseFail k s).value = s.value := rfl

/-! ### `resetRegisters` -/

@[simp] theorem resetRegisters_ph (s : State) : (resetRegisters s).ph = .idle := rfl
@[simp] theorem resetRegisters_tmr (s : State) : (resetRegisters s).tmr = 0 := rfl
@[simp] theorem resetRegisters_bitcnt (s : State) : (resetRegisters s).bitcnt = 0 := rfl
@[simp] theorem resetRegisters_f (s : State) : (resetRegisters s).f = Frame.zero := rfl
@[simp] theorem resetRegisters_err (s : State) : (resetRegisters s).err = none := rfl
@[simp] theorem resetRegisters_hum (s : State) : (resetRegisters s).hum = 0 := rfl
@[simp] theorem resetRegisters_temp (s : State) : (resetRegisters s).temp = 0 := rfl
@[simp] theorem resetRegisters_lineOe (s : State) : (resetRegisters s).lineOe = false := rfl
@[simp] theorem resetRegisters_lineOut (s : State) : (resetRegisters s).lineOut = true := rfl
@[simp] theorem resetRegisters_cfg (s : State) : (resetRegisters s).cfg = s.cfg := rfl
@[simp] theorem resetRegisters_inputs (s : State) : (resetRegisters s).inputs = s.inputs := rfl
@[simp] theorem resetRegisters_tick (s : State) : (resetRegisters s).tick = s.tick := rfl
@[simp] theorem resetRegisters_value (s : State) : (resetRegisters s).value = s.value := rfl

/-! ### `beginAttempt` -/

@[simp] theorem beginAttempt_ph (s : State) : (beginAttempt s).ph = .hsLow := rfl
@[simp] theorem beginAttempt_tmr (s : State) : (beginAttempt s).tmr = 0 := rfl
@[simp] theorem beginAttempt_bitcnt (s : State) : (beginAttempt s).bitcnt = 0 := rfl
@[simp] theorem beginAttempt_f (s : State) : (beginAttempt s).f = Frame.zero := rfl
@[simp] theorem beginAttempt_err (s : State) : (beginAttempt s).err = none := rfl
@[simp] theorem beginAttempt_hum (s : State) : (beginAttempt s).hum = 0 := rfl
@[simp] theorem beginAttempt_temp (s : State) : (beginAttempt s).temp = 0 := rfl
@[simp] theorem beginAttempt_lineOe (s : State) : (beginAttempt s).lineOe = s.lineOe := rfl
@[simp] theorem beginAttempt_lineOut (s : State) : (beginAttempt s).lineOut = s.lineOut := rfl
@[simp] theorem beginAttempt_cfg (s : State) : (beginAttempt s).cfg = s.cfg := rfl
@[simp] theorem beginAttempt_inputs (s : State) : (beginAttempt s).inputs = s.inputs := rfl
@[simp] theorem beginAttempt_tick (s : State) : (beginAttempt s).tick = s.tick := rfl
@[simp] theorem beginAttempt_value (s : State) : (beginAttempt s).value = s.value := rfl

/-! ### `endTick` -/

@[simp] theorem endTick_ph (s : State) : (endTick s).ph = s.ph := rfl
@[simp] theorem endTick_tmr (s : State) : (endTick s).tmr = s.tmr := rfl
@[simp] theorem endTick_bitcnt (s : State) : (endTick s).bitcnt = s.bitcnt := rfl
@[simp] theorem endTick_f (s : State) : (endTick s).f = s.f := rfl
@[simp] theorem endTick_err (s : State) : (endTick s).err = s.err := rfl
@[simp] theorem endTick_hum (s : State) : (endTick s).hum = s.hum := rfl
@[simp] theorem endTick_temp (s : State) : (endTick s).temp = s.temp := rfl
@[simp] theorem endTick_lineOe (s : State) : (endTick s).lineOe = s.lineOe := rfl
@[simp] theorem endTick_lineOut (s : State) : (endTick s).lineOut = s.lineOut := rfl
@[simp] theorem endTick_cfg (s : State) : (endTick s).cfg = s.cfg := rfl
@[simp] theorem endTick_inputs (s : State) : (endTick s).inputs = s.inputs.tail := rfl
@[simp] theorem endTick_tick (s : State) : (endTick s).tick = s.tick + 1 := rfl
@[simp] theorem endTick_value (s : State) : (endTick s).value = .nothing := rfl

/-! ### `present` -/

@[simp] theorem present_ph (i : Inputs) (s : State) : (present i s).ph = s.ph := rfl
@[simp] theorem present_tmr (i : Inputs) (s : State) : (present i s).tmr = s.tmr := rfl
@[simp] theorem present_bitcnt (i : Inputs) (s : State) : (present i s).bitcnt = s.bitcnt := rfl
@[simp] theorem present_f (i : Inputs) (s : State) : (present i s).f = s.f := rfl
@[simp] theorem present_err (i : Inputs) (s : State) : (present i s).err = s.err := rfl
@[simp] theorem present_hum (i : Inputs) (s : State) : (present i s).hum = s.hum := rfl
@[simp] theorem present_temp (i : Inputs) (s : State) : (present i s).temp = s.temp := rfl
@[simp] theorem present_lineOe (i : Inputs) (s : State) : (present i s).lineOe = s.lineOe := rfl
@[simp] theorem present_lineOut (i : Inputs) (s : State) : (present i s).lineOut = s.lineOut := rfl
@[simp] theorem present_cfg (i : Inputs) (s : State) : (present i s).cfg = s.cfg := rfl
@[simp] theorem present_inputs (i : Inputs) (s : State) : (present i s).inputs = i :: s.inputs.tail := rfl
@[simp] theorem present_tick (i : Inputs) (s : State) : (present i s).tick = s.tick := rfl
@[simp] theorem present_value (i : Inputs) (s : State) : (present i s).value = s.value := rfl

end Sys2Proof.Machine
end

