-- ==== Sys2Proof/Laws/Ops.lean ====
section
/-! SUPPORT. One lemma for each shared operation that says everything it can do; the meanings' lemmas and
the provers cite these in place of unfolding. -/

namespace Sys2Proof.Machine

/-! ### Sequencing -/

theorem next_eq_next {s t : State} : (Host.Outcome.next s : Answer) = .next t ↔ t = s := by
  constructor
  · rintro ⟨⟩; rfl
  · rintro rfl; rfl

@[simp] theorem andThen_of_next (s : State) (k : State → Answer) : andThen (.next s) k = k s := rfl
@[simp] theorem andThen_of_fault (e : Fault) (k : State → Answer) : andThen (.fault e) k = .fault e := rfl
@[simp] theorem andThen_of_refused (r : Refusal) (k : State → Answer) :
    andThen (.refused r) k = .refused r := rfl

theorem andThen_eq_next {a : Answer} {k : State → Answer} {t : State} :
    andThen a k = .next t ↔ ∃ s, a = .next s ∧ k s = .next t := by
  cases a <;> simp [andThen]

/-! ### The environment -/

theorem upcoming_endTick (s : State) (k : Nat) : upcoming (endTick s) k = upcoming s (k + 1) := by
  unfold upcoming
  simp only [endTick_inputs, endTick_tick]
  cases s.inputs with
  | nil => simp [Nat.add_comm, Nat.add_left_comm]
  | cons i r => simp [Nat.add_comm, Nat.add_left_comm]

@[simp] theorem currentInput_present (i : Inputs) (s : State) : currentInput (present i s) = i := rfl

/-- The environment's inputs depend on two fields of the state only. -/
theorem upcoming_congr {s t : State} (hi : s.inputs = t.inputs) (ht : s.tick = t.tick) (k : Nat) :
    upcoming s k = upcoming t k := by
  simp [upcoming, hi, ht]

/-! ### The line -/

theorem lineWrite_of_output {s : State} (v : Level) (h : s.lineOe = true) :
    lineWrite v s = .next { s with lineOut := v } := by simp [lineWrite, h]

theorem lineWrite_of_input {s : State} (v : Level) (h : s.lineOe = false) :
    lineWrite v s = .refused .writeInInputMode := by simp [lineWrite, h]

theorem lineWrite_eq_next {v : Level} {s t : State} :
    lineWrite v s = .next t ↔ s.lineOe = true ∧ t = { s with lineOut := v } := by
  unfold lineWrite; split <;> simp_all [eq_comm (a := t)]

theorem lineRead_of_input {s : State} (k : Level → Answer) (h : s.lineOe = false) :
    lineRead s k = k (lineIn s) := by simp [lineRead, h]

theorem lineRead_of_output {s : State} (k : Level → Answer) (h : s.lineOe = true) :
    lineRead s k = .refused .readInOutputMode := by simp [lineRead, h]

theorem lineRead_eq_next {s t : State} {k : Level → Answer} :
    lineRead s k = .next t ↔ s.lineOe = false ∧ k (lineIn s) = .next t := by
  unfold lineRead; split <;> simp_all

/-! ### Holds and waits -/

theorem hold_last {bound : Nat} {k : State → Answer} {s : State} (h : elapsed s = bound) :
    hold bound k s = k s := by simp [hold, h]

theorem hold_count {bound : Nat} {k : State → Answer} {s : State} (h : elapsed s ≠ bound) :
    hold bound k s = .next (countTick s) := by simp [hold, h]

theorem hold_eq_next {bound : Nat} {k : State → Answer} {s t : State} :
    hold bound k s = .next t ↔
      (elapsed s = bound ∧ k s = .next t) ∨ (elapsed s ≠ bound ∧ t = countTick s) := by
  unfold hold; split <;> simp_all [eq_comm (a := t)]

theorem boundedWait_satisfied {w : Level} {bound : Nat} {kind : FailKind} {k : State → Answer} {s : State}
    (ho : s.lineOe = false) (h : lineIn s = w) : boundedWait w bound kind k s = k s := by
  simp [boundedWait, lineRead, ho, h]

theorem boundedWait_expired {w : Level} {bound : Nat} {kind : FailKind} {k : State → Answer} {s : State}
    (ho : s.lineOe = false) (h : lineIn s ≠ w) (hb : elapsed s = bound) :
    boundedWait w bound kind k s = .next (raiseFail kind s) := by
  simp [boundedWait, lineRead, ho, h, hb]

theorem boundedWait_count {w : Level} {bound : Nat} {kind : FailKind} {k : State → Answer} {s : State}
    (ho : s.lineOe = false) (h : lineIn s ≠ w) (hb : elapsed s ≠ bound) :
    boundedWait w bound kind k s = .next (countTick s) := by
  simp [boundedWait, lineRead, ho, h, hb]

theorem boundedWait_eq_next {w : Level} {bound : Nat} {kind : FailKind} {k : State → Answer} {s t : State} :
    boundedWait w bound kind k s = .next t ↔
      s.lineOe = false ∧
        ((lineIn s = w ∧ k s = .next t) ∨
         (lineIn s ≠ w ∧ elapsed s = bound ∧ t = raiseFail kind s) ∨
         (lineIn s ≠ w ∧ elapsed s ≠ bound ∧ t = countTick s)) := by
  unfold boundedWait
  rw [lineRead_eq_next]
  split
  · simp_all
  · split <;> simp_all [eq_comm (a := t)]

/-! ### The frame -/

theorem Frame.get?_of_lt (f : Frame) {i : Nat} (h : i < 5) : ∃ v, f.get? i = some v := by
  match i, h with
  | 0, _ => exact ⟨_, rfl⟩
  | 1, _ => exact ⟨_, rfl⟩
  | 2, _ => exact ⟨_, rfl⟩
  | 3, _ => exact ⟨_, rfl⟩
  | 4, _ => exact ⟨_, rfl⟩

theorem Frame.get?_of_ge (f : Frame) {i : Nat} (h : 5 ≤ i) : f.get? i = none := by
  match i, h with
  | n + 5, _ => rfl

theorem Frame.get?_set_same (f : Frame) (v : Byte) {i : Nat} (h : i < 5) :
    (f.set i v).get? i = some v := by
  match i, h with
  | 0, _ => rfl
  | 1, _ => rfl
  | 2, _ => rfl
  | 3, _ => rfl
  | 4, _ => rfl

theorem Frame.get?_set_other (f : Frame) (v : Byte) {i j : Nat} (h : j ≠ i) :
    (f.set i v).get? j = f.get? j := by
  rcases i with _ | _ | _ | _ | _ | i <;> rcases j with _ | _ | _ | _ | _ | j <;>
    first | rfl | exact absurd rfl h

theorem Frame.get?_zero_byte {i : Nat} {v : Byte} (h : Frame.zero.get? i = some v) : v = 0 := by
  rcases i with _ | _ | _ | _ | _ | i <;> simp_all [Frame.get?, Frame.zero]

theorem Frame.ext_get? {f g : Frame} (h : ∀ i, f.get? i = g.get? i) : f = g := by
  have h0 := h 0; have h1 := h 1; have h2 := h 2; have h3 := h 3; have h4 := h 4
  cases f; cases g
  simp_all [Frame.get?]

theorem shiftBit_of_room (b : Bool) {s : State} {v : Byte} (h : s.f.get? (frameIndex s) = some v) :
    shiftBit b s =
      .next { s with f := s.f.set (frameIndex s) (shiftByte v b), bitcnt := s.bitcnt + 1 } := by
  simp [shiftBit, h]

theorem shiftBit_of_full (b : Bool) {s : State} (h : 40 ≤ s.bitcnt.toNat) :
    shiftBit b s = .fault .frameByteAbsent := by
  have : s.f.get? (frameIndex s) = none := Frame.get?_of_ge _ (by unfold frameIndex; omega)
  simp [shiftBit, this]

theorem shiftBit_eq_next {b : Bool} {s t : State} :
    shiftBit b s = .next t ↔
      ∃ v, s.f.get? (frameIndex s) = some v ∧
        t = { s with f := s.f.set (frameIndex s) (shiftByte v b), bitcnt := s.bitcnt + 1 } := by
  unfold shiftBit
  cases s.f.get? (frameIndex s) <;> simp [eq_comm (a := t)]

theorem frameIndex_lt {s : State} (h : s.bitcnt.toNat < 40) : frameIndex s < 5 := by
  unfold frameIndex; omega

theorem shiftByte_toNat (v : Byte) (b : Bool) : (shiftByte v b).toNat = (2 * v.toNat + bitNat b) % 256 := by
  revert v; cases b <;> decide

/-! ### The sampler, the validator -/

theorem consumeSample_eq_next {o : SampleOutcome} {s t : State} :
    consumeSample o s = .next t ↔
      (o = .zero ∧ ∃ u, shiftBit false s = .next u ∧ t = enterPhase .smGap u) ∨
      (o = .one ∧ ∃ u, shiftBit true s = .next u ∧ t = enterPhase .smGap u) ∨
      (o = .error ∧ t = raiseFail .measurement s) ∨
      (o = .timedOut ∧ t = raiseFail .timeout s) := by
  cases o <;> simp [consumeSample, andThen_eq_next, eq_comm (a := t)]

theorem validateFrame_eq_next {f : Frame} {s t : State} :
    validateFrame f s = .next t ↔
      (checksumOk f = true ∧
        t = clearTransient { s with hum := convHum f, temp := convTemp f, ph := .done }) ∨
      (checksumOk f = false ∧ t = raiseFail .checksumError s) := by
  unfold validateFrame; split <;> simp_all [eq_comm (a := t)]

/-! ### The step -/

theorem step_eq_next {s t : State} :
    step s = .next t ↔ ∃ u, exec (fetch s) s = .next u ∧ t = endTick u := by
  simp [step, andThen_eq_next, eq_comm (a := t)]

/-- The operation that a phase names has that phase's meaning. -/
theorem execNop_eq_phase (s : State) : exec .nop s = exec s.ph.instr s := by
  cases h : s.ph <;> simp [exec, execNop, Phase.instr, h]

end Sys2Proof.Machine
end

