-- ==== Sys2Proof/Laws/Invariant.lean ====
section
/-! SUPPORT. Small lemmas about the invariant: what it depends on, and the bounds it gives. -/

namespace Sys2Proof.Machine

/-- An empty frame is filled as far as any bit counter says. -/
theorem frameFilled_of_zero {s : State} (h : s.f = Frame.zero) : frameFilled s := by
  unfold frameFilled
  rw [h]
  refine ⟨fun i v hv _ => Frame.get?_zero_byte hv, fun _ v hv => ?_⟩
  rw [Frame.get?_zero_byte hv]
  exact Nat.two_pow_pos _

/-- The numbers of a conforming configuration. -/
theorem conforming_values {c : Params} (h : c.Conforming) :
    c.tWake = 18000 ∧ c.tAck = 80 ∧ c.tTimeout = 100000 ∧ c.tZeroMin = 26 ∧ c.tZeroMax = 28 ∧
      c.tOneMin = 70 ∧ c.tGap = 50 ∧ c.nBits = 40 ∧ 20 ≤ c.tRelease ∧ c.tRelease ≤ 40 := by
  obtain ⟨h, h1, h2⟩ := h
  rw [h]
  exact ⟨rfl, rfl, rfl, rfl, rfl, rfl, rfl, rfl, h1, h2⟩

/-- No phase lasts longer than a wait of the sampler. -/
theorem tmrBound_le {c : Params} (h : c.Conforming) (p : Phase) : tmrBound c p ≤ 100000 := by
  have := conforming_values h
  cases p <;> simp only [tmrBound] <;> omega

theorem sameRegisters.refl (s : State) : sameRegisters s s :=
  ⟨rfl, rfl, rfl, rfl, rfl, rfl, rfl, rfl, rfl, rfl⟩

theorem sameRegisters.symm {s t : State} (h : sameRegisters s t) : sameRegisters t s := by
  obtain ⟨h1, h2, h3, h4, h5, h6, h7, h8, h9, h10⟩ := h
  exact ⟨h1.symm, h2.symm, h3.symm, h4.symm, h5.symm, h6.symm, h7.symm, h8.symm, h9.symm, h10.symm⟩

theorem sameRegisters.trans {s t u : State} (h : sameRegisters s t) (h' : sameRegisters t u) :
    sameRegisters s u := by
  obtain ⟨h1, h2, h3, h4, h5, h6, h7, h8, h9, h10⟩ := h
  obtain ⟨k1, k2, k3, k4, k5, k6, k7, k8, k9, k10⟩ := h'
  exact ⟨h1.trans k1, h2.trans k2, h3.trans k3, h4.trans k4, h5.trans k5, h6.trans k6, h7.trans k7,
    h8.trans k8, h9.trans k9, h10.trans k10⟩

/-- The invariant is about the registers and the configuration only. -/
theorem Invariant.congr {s t : State} (h : sameRegisters s t) (hs : Invariant s) : Invariant t := by
  obtain ⟨h1, h2, h3, h4, h5, h6, h7, h8, h9, h10⟩ := h
  have hf : frameFilled t := by
    have := hs.filled
    unfold frameFilled frameIndex at this ⊢
    rwa [h3, h4] at this
  refine ⟨h10 ▸ hs.conforming, ?_, ?_, ?_, ?_, ?_, ?_, ?_, ?_, ?_, ?_, hf, ?_, ?_⟩
  · rw [← h8, ← h1]; exact hs.driven
  · rw [← h9, ← h1]; exact hs.drivenLow
  · rw [← h1, ← h8]; exact hs.readable
  · rw [← h3]; exact hs.bitsMax
  · rw [← h1, ← h3]; exact hs.bitsNone
  · rw [← h1, ← h3]; exact hs.bitsAll
  · rw [← h1, ← h3]; exact hs.bitsGap
  · rw [← h1, ← h3]; exact hs.bitsRoom
  · rw [← h5, ← h1]; exact hs.errKind
  · rw [← h1, ← h6, ← h7]; exact hs.noReading
  · rw [← h1, ← h4]; exact hs.emptied
  · rw [← h2, ← h10, ← h1]; exact hs.timer

end Sys2Proof.Machine
end

