-- ==== Sys2Proof/Laws/PerInstr.lean ====
section
/-! SUPPORT. One family of laws over the syntax, a lemma for each constructor of `Instr`: the word of a
well-formed operation is a word of its format. -/

namespace Sys2Proof.Laws.EncodingFits

/-- A word of a format: of at most the format's width, and for a pulse at least one tick (R70, R73). -/
def fits (c : Code) : Bool :=
  match c.fmt.width with
  | some n => decide (c.word < 2 ^ n)
  | none => decide (1 ≤ c.word)

/-- The word of `i`, where `i` is well-formed and has one, is a word of its format. -/
def Statement (i : Instr) : Prop :=
  i.wellFormed = true → ∀ c, encode i = some c → fits c = true

theorem of_code {i : Instr} {c : Code} (he : encode i = some c) (h : i.wellFormed = true → fits c = true) :
    Statement i := by
  intro hw c' hc
  rw [he, Option.some.injEq] at hc
  exact hc ▸ h hw

theorem of_none {i : Instr} (he : encode i = none) : Statement i := by
  intro _ c hc
  rw [he] at hc
  cases hc

theorem frameWord_lt (h : BitVec 16) (s : Bool) (m : BitVec 15) (c : Byte) : frameWord h s m c < 2 ^ 40 := by
  have h1 := h.isLt
  have h2 := m.isLt
  have h3 := c.isLt
  have h4 : bitNat s ≤ 1 := by cases s <;> decide
  unfold frameWord
  omega

theorem reset (start : Bool) : Statement (.reset start) := of_code rfl fun _ => by cases start <;> decide
theorem decode : Statement .decode := of_code rfl fun _ => by decide
theorem nop : Statement .nop := of_code rfl fun _ => by decide
theorem idle : Statement .idle := of_code rfl fun _ => by decide
theorem hsLow : Statement .hsLow := of_code rfl fun _ => by decide
theorem hsRel : Statement .hsRel := of_code rfl fun _ => by decide
theorem hsAck1 : Statement .hsAck1 := of_code rfl fun _ => by decide
theorem hsAck2 : Statement .hsAck2 := of_code rfl fun _ => by decide
theorem smWaitLow : Statement .smWaitLow := of_code rfl fun _ => by decide
theorem smWaitHigh : Statement .smWaitHigh := of_code rfl fun _ => by decide
theorem smMeasure : Statement .smMeasure := of_code rfl fun _ => by decide
theorem smGap : Statement .smGap := of_code rfl fun _ => by decide
theorem validate : Statement .validate := of_code rfl fun _ => by decide
theorem done : Statement .done := of_code rfl fun _ => by decide
theorem failed : Statement .failed := of_code rfl fun _ => by decide
theorem short (d : Nat) : Statement (.short d) :=
  of_code rfl fun hw => by
    have h := of_decide_eq_true hw
    simp only [Params.standard] at h
    exact decide_eq_true (by dsimp only; omega)
theorem zero (d : Nat) : Statement (.zero d) :=
  of_code rfl fun hw => by
    have h := of_decide_eq_true hw
    simp only [Params.standard] at h
    exact decide_eq_true (by dsimp only; omega)
theorem ambiguous (d : Nat) : Statement (.ambiguous d) :=
  of_code rfl fun hw => by
    have h := of_decide_eq_true hw
    simp only [Params.standard] at h
    exact decide_eq_true (by dsimp only; omega)
theorem one (d : Nat) : Statement (.one d) :=
  of_code rfl fun hw => by
    have h := of_decide_eq_true hw
    simp only [Params.standard] at h
    exact decide_eq_true (by dsimp only; omega)
theorem overlong (d : Nat) : Statement (.overlong d) :=
  of_code rfl fun hw => by
    have h := of_decide_eq_true hw
    simp only [Params.standard] at h
    exact decide_eq_true (by dsimp only; omega)
theorem frame (h : BitVec 16) (s : Bool) (m : BitVec 15) (c : Byte) : Statement (.frame h s m c) :=
  of_code rfl fun _ => decide_eq_true (frameWord_lt h s m c)
theorem classify : Statement .classify := of_none rfl
theorem shiftIn (b : Bool) : Statement (.shiftIn b) := of_none rfl
theorem checksum : Statement .checksum := of_none rfl
theorem convHum : Statement .convHum := of_none rfl
theorem convTemp : Statement .convTemp := of_none rfl
theorem setdirIn : Statement .setdirIn := of_code rfl fun _ => by decide
theorem setdirOut : Statement .setdirOut := of_code rfl fun _ => by decide
theorem writeLow : Statement .writeLow := of_code rfl fun _ => by decide
theorem writeHigh : Statement .writeHigh := of_code rfl fun _ => by decide
theorem readLevel : Statement .readLevel := of_code rfl fun _ => by decide
theorem fail (k : FailKind) : Statement (.fail k) := of_code rfl fun _ => by cases k <;> decide
theorem failNoResponse : Statement .failNoResponse := of_code rfl fun _ => by decide
theorem failProtocolViolation : Statement .failProtocolViolation := of_code rfl fun _ => by decide
theorem failTimeout : Statement .failTimeout := of_code rfl fun _ => by decide
theorem failMeasurement : Statement .failMeasurement := of_code rfl fun _ => by decide
theorem failChecksumError : Statement .failChecksumError := of_code rfl fun _ => by decide

end Sys2Proof.Laws.EncodingFits
end

