-- ==== Sys2Proof/Laws/Phases.lean ====
section
/-! SUPPORT. What each phase can do, and from those one inversion of the whole step: every tick that has a
next state makes one of the moves of `Move` (R180, R181). -/

namespace Sys2Proof.Machine

theorem execHsLow_eq_next {s t : State} :
    execHsLow s = .next t ↔
      (elapsed s = s.cfg.tWake ∧ s.lineOe = true ∧ t = enterPhase .hsRel { s with lineOut := true }) ∨
      (elapsed s ≠ s.cfg.tWake ∧ t = countTick s) := by
  simp [execHsLow, hold_eq_next, andThen_eq_next, lineWrite_eq_next, eq_comm (a := t), and_assoc]

theorem execHsRel_eq_next {s t : State} :
    execHsRel s = .next t ↔
      (elapsed s = s.cfg.tRelease ∧ t = enterPhase .hsAck1 (lineDir .input s)) ∨
      (elapsed s ≠ s.cfg.tRelease ∧ t = countTick s) := by
  simp [execHsRel, hold_eq_next, eq_comm (a := t)]

theorem execSmGap_eq_next {s t : State} :
    execSmGap s = .next t ↔
      (elapsed s = s.cfg.tGap ∧
        t = enterPhase (if s.bitcnt.toNat = s.cfg.nBits then .validate else .smWaitLow) s) ∨
      (elapsed s ≠ s.cfg.tGap ∧ t = countTick s) := by
  simp [execSmGap, hold_eq_next, eq_comm (a := t)]

/-- One tick's effect on the registers, with the condition it happens under. -/
inductive Move (s : State) : State → Prop where
  | reset (hr : (currentInput s).rst = true) : Move s (resetRegisters s)
  | start (hr : (currentInput s).rst = false) (hs : (currentInput s).start = true)
      (hb : busy s = false) : Move s (beginAttempt { lineDir .output s with lineOut := false })
  | stay (hr : (currentInput s).rst = false) (hs : (currentInput s).start = false)
      (hb : busy s = false) : Move s s
  | holdCount (hr : (currentInput s).rst = false) (hs : (currentInput s).start = false)
      (hp : s.ph = .hsLow ∧ elapsed s ≠ s.cfg.tWake ∨ s.ph = .hsRel ∧ elapsed s ≠ s.cfg.tRelease ∨
        s.ph = .smGap ∧ elapsed s ≠ s.cfg.tGap) : Move s (countTick s)
  | wake (hr : (currentInput s).rst = false) (hs : (currentInput s).start = false)
      (hp : s.ph = .hsLow) (he : elapsed s = s.cfg.tWake) (ho : s.lineOe = true) :
      Move s (enterPhase .hsRel { s with lineOut := true })
  | release (hr : (currentInput s).rst = false) (hs : (currentInput s).start = false)
      (hp : s.ph = .hsRel) (he : elapsed s = s.cfg.tRelease) :
      Move s (enterPhase .hsAck1 (lineDir .input s))
  | waitCount (hr : (currentInput s).rst = false) (hs : (currentInput s).start = false)
      (ho : s.lineOe = false)
      (hp : s.ph = .hsAck1 ∧ lineIn s = true ∧ elapsed s ≠ s.cfg.tAck ∨
        s.ph = .hsAck2 ∧ lineIn s = false ∧ elapsed s ≠ s.cfg.tAck ∨
        s.ph = .smWaitLow ∧ lineIn s = true ∧ elapsed s ≠ s.cfg.tTimeout ∨
        s.ph = .smWaitHigh ∧ lineIn s = false ∧ elapsed s ≠ s.cfg.tTimeout ∨
        s.ph = .smMeasure ∧ lineIn s = true ∧ elapsed s ≠ s.cfg.tTimeout) : Move s (countTick s)
  | satisfied (p : Phase) (hr : (currentInput s).rst = false) (hs : (currentInput s).start = false)
      (ho : s.lineOe = false)
      (hp : s.ph = .hsAck1 ∧ lineIn s = false ∧ p = .hsAck2 ∨
        s.ph = .hsAck2 ∧ lineIn s = true ∧ p = .smWaitLow ∨
        s.ph = .smWaitLow ∧ lineIn s = false ∧ p = .smWaitHigh ∨
        s.ph = .smWaitHigh ∧ lineIn s = true ∧ p = .smMeasure) : Move s (enterPhase p s)
  | expired (k : FailKind) (hr : (currentInput s).rst = false) (hs : (currentInput s).start = false)
      (ho : s.lineOe = false)
      (hp : s.ph = .hsAck1 ∧ lineIn s = true ∧ elapsed s = s.cfg.tAck ∧ k = .noResponse ∨
        s.ph = .hsAck2 ∧ lineIn s = false ∧ elapsed s = s.cfg.tAck ∧ k = .protocolViolation ∨
        s.ph = .smWaitLow ∧ lineIn s = true ∧ elapsed s = s.cfg.tTimeout ∧ k = .timeout ∨
        s.ph = .smWaitHigh ∧ lineIn s = false ∧ elapsed s = s.cfg.tTimeout ∧ k = .timeout ∨
        s.ph = .smMeasure ∧ lineIn s = true ∧ elapsed s = s.cfg.tTimeout ∧ k = .timeout) :
      Move s (raiseFail k s)
  | sample (b : Bool) (v : Byte) (hr : (currentInput s).rst = false)
      (hs : (currentInput s).start = false) (ho : s.lineOe = false) (hp : s.ph = .smMeasure)
      (hl : lineIn s = false) (hc : classify s.cfg (elapsed s) = if b then .one else .zero)
      (hv : s.f.get? (frameIndex s) = some v) :
      Move s (enterPhase .smGap
        { s with f := s.f.set (frameIndex s) (shiftByte v b), bitcnt := s.bitcnt + 1 })
  | badPulse (k : FailKind) (hr : (currentInput s).rst = false) (hs : (currentInput s).start = false)
      (ho : s.lineOe = false) (hp : s.ph = .smMeasure) (hl : lineIn s = false)
      (hc : classify s.cfg (elapsed s) = .error ∧ k = .measurement ∨
        classify s.cfg (elapsed s) = .timedOut ∧ k = .timeout) : Move s (raiseFail k s)
  | gapEnd (hr : (currentInput s).rst = false) (hs : (currentInput s).start = false)
      (hp : s.ph = .smGap) (he : elapsed s = s.cfg.tGap) :
      Move s (enterPhase (if s.bitcnt.toNat = s.cfg.nBits then .validate else .smWaitLow) s)
  | validFrame (hr : (currentInput s).rst = false) (hs : (currentInput s).start = false)
      (hp : s.ph = .validate) (hc : checksumOk s.f = true) :
      Move s (clearTransient { s with hum := convHum s.f, temp := convTemp s.f, ph := .done })
  | badFrame (hr : (currentInput s).rst = false) (hs : (currentInput s).start = false)
      (hp : s.ph = .validate) (hc : checksumOk s.f = false) : Move s (raiseFail .checksumError s)

theorem busy_eq_false_iff {s : State} :
    busy s = false ↔ s.ph = .idle ∨ s.ph = .done ∨ s.ph = .failed := by
  cases h : s.ph <;> simp [busy, idle, done, failed, h]

theorem execDecode_eq_next {s t : State} :
    execDecode s = .next t ↔
      busy s = false ∧ t = beginAttempt { lineDir .output s with lineOut := false } := by
  unfold execDecode
  split
  · simp_all
  · simp_all [andThen_eq_next, lineWrite_eq_next, eq_comm (a := t)]

theorem boolLevel_ne {b c : Bool} : b ≠ c ↔ b = !c := by cases b <;> cases c <;> decide

/-- What `NOP` can do: one of the moves that no command makes. -/
theorem execNop_move {s t : State} (hr : (currentInput s).rst = false)
    (hs : (currentInput s).start = false) (h : execNop s = .next t) : Move s t := by
  cases hp : s.ph <;> simp only [execNop, hp] at h
  case idle =>
    cases h; exact .stay hr hs (by simp [busy_eq_false_iff, hp])
  case done =>
    cases h; exact .stay hr hs (by simp [busy_eq_false_iff, hp])
  case failed =>
    cases h; exact .stay hr hs (by simp [busy_eq_false_iff, hp])
  case hsLow =>
    obtain ⟨he, ho, rfl⟩ | ⟨he, rfl⟩ := execHsLow_eq_next.1 h
    · exact .wake hr hs hp he ho
    · exact .holdCount hr hs (by simp [hp, he])
  case hsRel =>
    obtain ⟨he, rfl⟩ | ⟨he, rfl⟩ := execHsRel_eq_next.1 h
    · exact .release hr hs hp he
    · exact .holdCount hr hs (by simp [hp, he])
  case smGap =>
    obtain ⟨he, rfl⟩ | ⟨he, rfl⟩ := execSmGap_eq_next.1 h
    · exact .gapEnd hr hs hp he
    · exact .holdCount hr hs (by simp [hp, he])
  case hsAck1 =>
    obtain ⟨ho, ⟨hl, h⟩ | ⟨hl, he, rfl⟩ | ⟨hl, he, rfl⟩⟩ := boundedWait_eq_next.1 h
    · cases h; exact .satisfied _ hr hs ho (by simp [hp, hl])
    · exact .expired _ hr hs ho (by simp_all)
    · exact .waitCount hr hs ho (by simp_all)
  case hsAck2 =>
    obtain ⟨ho, ⟨hl, h⟩ | ⟨hl, he, rfl⟩ | ⟨hl, he, rfl⟩⟩ := boundedWait_eq_next.1 h
    · cases h; exact .satisfied _ hr hs ho (by simp [hp, hl])
    · exact .expired _ hr hs ho (by simp_all)
    · exact .waitCount hr hs ho (by simp_all)
  case smWaitLow =>
    obtain ⟨ho, ⟨hl, h⟩ | ⟨hl, he, rfl⟩ | ⟨hl, he, rfl⟩⟩ := boundedWait_eq_next.1 h
    · cases h; exact .satisfied _ hr hs ho (by simp [hp, hl])
    · exact .expired _ hr hs ho (by simp_all)
    · exact .waitCount hr hs ho (by simp_all)
  case smWaitHigh =>
    obtain ⟨ho, ⟨hl, h⟩ | ⟨hl, he, rfl⟩ | ⟨hl, he, rfl⟩⟩ := boundedWait_eq_next.1 h
    · cases h; exact .satisfied _ hr hs ho (by simp [hp, hl])
    · exact .expired _ hr hs ho (by simp_all)
    · exact .waitCount hr hs ho (by simp_all)
  case smMeasure =>
    obtain ⟨ho, ⟨hl, h⟩ | ⟨hl, he, rfl⟩ | ⟨hl, he, rfl⟩⟩ := boundedWait_eq_next.1 h
    · obtain ⟨hc, u, hu, rfl⟩ | ⟨hc, u, hu, rfl⟩ | ⟨hc, rfl⟩ | ⟨hc, rfl⟩ := consumeSample_eq_next.1 h
      · obtain ⟨v, hv, rfl⟩ := shiftBit_eq_next.1 hu
        exact .sample false v hr hs ho hp hl hc hv
      · obtain ⟨v, hv, rfl⟩ := shiftBit_eq_next.1 hu
        exact .sample true v hr hs ho hp hl hc hv
      · exact .badPulse _ hr hs ho hp hl (.inl ⟨hc, rfl⟩)
      · exact .badPulse _ hr hs ho hp hl (.inr ⟨hc, rfl⟩)
    · exact .expired _ hr hs ho (by simp_all)
    · exact .waitCount hr hs ho (by simp_all)
  case validate =>
    obtain ⟨hc, rfl⟩ | ⟨hc, rfl⟩ := validateFrame_eq_next.1 h
    · exact .validFrame hr hs hp hc
    · exact .badFrame hr hs hp hc

/-- THE INVERSION OF THE STEP: a tick that has a next state makes a move, and then the environment moves
on. -/
theorem step_move {s t : State} (h : step s = .next t) : ∃ u, Move s u ∧ t = endTick u := by
  obtain ⟨u, hu, rfl⟩ := step_eq_next.1 h
  refine ⟨u, ?_, rfl⟩
  cases hr : (currentInput s).rst with
  | true =>
    simp only [fetch, command, hr, if_true, exec, execReset] at hu
    cases hu
    exact .reset hr
  | false =>
    cases hs : (currentInput s).start with
    | true =>
      simp only [fetch, command, hr, hs, exec] at hu
      obtain ⟨hb, rfl⟩ := execDecode_eq_next.1 hu
      exact .start hr hs hb
    | false =>
      simp only [fetch, command, hr, hs, exec] at hu
      exact execNop_move hr hs hu

end Sys2Proof.Machine
end

