-- ==== Sys2Proof/Laws/Run.lean ====
section
/-! SUPPORT. Runs of several ticks: how a run is composed, what inputs its ticks see, and that it is the
host's run of the core. -/

namespace Sys2Proof.Machine

@[simp] theorem runsTo_zero {s t : State} : RunsTo 0 s t ↔ t = s := by
  unfold RunsTo runTicks
  exact next_eq_next

theorem runsTo_succ {n : Nat} {s t : State} :
    RunsTo (n + 1) s t ↔ ∃ u, step s = .next u ∧ RunsTo n u t := by
  unfold RunsTo
  rw [runTicks, andThen_eq_next]

theorem runsTo_one {s t : State} : RunsTo 1 s t ↔ step s = .next t := by
  rw [runsTo_succ]; simp

theorem runsTo_add {m n : Nat} {s t : State} :
    RunsTo (m + n) s t ↔ ∃ u, RunsTo m s u ∧ RunsTo n u t := by
  induction m generalizing s with
  | zero => simp
  | succ m ih =>
    rw [Nat.succ_add, runsTo_succ]
    simp only [ih, runsTo_succ]
    constructor
    · rintro ⟨u, h, v, hv, ht⟩; exact ⟨v, ⟨u, h, hv⟩, ht⟩
    · rintro ⟨v, ⟨u, h, hv⟩, ht⟩; exact ⟨u, h, v, hv, ht⟩

/-- A run has at most one end. -/
theorem RunsTo.unique {n : Nat} {s t u : State} (h : RunsTo n s t) (h' : RunsTo n s u) : u = t :=
  next_eq_next.1 (h.symm.trans h')

theorem hostRun_next {M : Host.Core} {s t : M.State} (n : Nat) (h : M.step s = .next t) :
    M.run (n + 1) s = M.run n t := by rw [Host.Core.run.eq_def]; simp [h]

theorem hostRun_fault {M : Host.Core} {s : M.State} {r : M.Fault} (n : Nat) (h : M.step s = .fault r) :
    M.run (n + 1) s = .fault r := by rw [Host.Core.run.eq_def]; simp [h]

theorem hostRun_refused {M : Host.Core} {s : M.State} {r : M.Refusal} (n : Nat)
    (h : M.step s = .refused r) : M.run (n + 1) s = .refused r := by
  rw [Host.Core.run.eq_def]; simp [h]

/-- The run of the host's interface is the run of the claims. -/
theorem core_run_eq (n : Nat) (s : State) : Sys2Proof.core.run n s = runTicks n s := by
  induction n generalizing s with
  | zero => rfl
  | succ n ih =>
    rw [runTicks]
    cases h : step s with
    | next t => exact (hostRun_next (M := Sys2Proof.core) n h).trans (ih t)
    | fault r => exact hostRun_fault (M := Sys2Proof.core) n h
    | refused r => exact hostRun_refused (M := Sys2Proof.core) n h

/-! ### The inputs along a run -/

/-- No operation touches the environment: after a tick the next inputs are the ones that came second. -/
theorem upcoming_step {s t : State} (h : step s = .next t) (k : Nat) :
    upcoming t k = upcoming s (k + 1) := by
  obtain ⟨u, hm, rfl⟩ := step_move h
  rw [upcoming_endTick]
  have : u.inputs = s.inputs ∧ u.tick = s.tick := by cases hm <;> exact ⟨rfl, rfl⟩
  exact upcoming_congr this.1 this.2 _

theorem upcoming_runsTo {n : Nat} {s t : State} (h : RunsTo n s t) (k : Nat) :
    upcoming t k = upcoming s (n + k) := by
  induction n generalizing s with
  | zero => rw [runsTo_zero] at h; subst h; simp
  | succ n ih =>
    obtain ⟨u, hu, ht⟩ := runsTo_succ.1 h
    rw [ih ht, upcoming_step hu]
    congr 1; omega

theorem QuietFor.mono {m n : Nat} {s : State} (h : QuietFor n s) (hm : m ≤ n) : QuietFor m s :=
  fun k hk => h k (by omega)

theorem QuietFor.runsTo {m n : Nat} {s t : State} (h : QuietFor (m + n) s) (hr : RunsTo m s t) :
    QuietFor n t := fun k hk => by
  rw [upcoming_runsTo hr]; exact h _ (by omega)

theorem quietFor_of_inputs {n : Nat} {s : State} {ls : List Level} {rest : List Inputs}
    (h : s.inputs = quietInputs ls ++ rest) (hn : n ≤ ls.length) : QuietFor n s := fun k hk => by
  have hk' : k < ls.length := by omega
  have : s.inputs[k]? = some (Inputs.quiet ls[k]) := by
    rw [h, List.getElem?_append_left (by simpa [quietInputs] using hk')]
    simp [quietInputs, hk']
  simp [upcoming, this, Inputs.quiet]

theorem lineIn_of_inputs {s : State} {ls : List Level} {rest : List Inputs}
    (h : s.inputs = quietInputs ls ++ rest) {k : Nat} {v : Level} (hk : ls[k]? = some v) :
    (upcoming s k).lineIn = v := by
  have hk' : k < ls.length := (List.getElem?_eq_some_iff.1 hk).1
  have : s.inputs[k]? = some (Inputs.quiet v) := by
    rw [h, List.getElem?_append_left (by simpa [quietInputs] using hk')]
    simp [quietInputs, hk]
  simp [upcoming, this, Inputs.quiet]

/-- Any listed inputs that ask for nothing. -/
theorem quietFor_of_replicate {n m : Nat} {s : State} {v : Level} (h : s.inputs = List.replicate m (Inputs.quiet v))
    (hn : n ≤ m) : QuietFor n s := fun k hk => by
  have : s.inputs[k]? = some (Inputs.quiet v) := by
    rw [h]; exact List.getElem?_replicate_of_lt (by omega)
  simp [upcoming, this, Inputs.quiet]

theorem lineReads_of_replicate {n m : Nat} {s : State} {v : Level} (h : s.inputs = List.replicate m (Inputs.quiet v))
    (hn : n ≤ m) : LineReads v n s := fun k hk => by
  have : s.inputs[k]? = some (Inputs.quiet v) := by
    rw [h]; exact List.getElem?_replicate_of_lt (by omega)
  simp [upcoming, this, Inputs.quiet]

/-! ### The levels of a script -/

theorem levels_append (a b : List LineRun) : levels (a ++ b) = levels a ++ levels b := by
  simp [levels]

theorem length_levels (runs : List LineRun) : (levels runs).length = (runs.map LineRun.count).sum := by
  simp [levels]

theorem length_pulseRuns (ps : List Pulse) : (levels (pulseRuns ps)).length = pulseTicks ps := by
  induction ps with
  | nil => rfl
  | cons p ps ih =>
    have h : pulseRuns (p :: ps) = [low p.lowRun, high p.width] ++ pulseRuns ps := rfl
    rw [h, levels_append, List.length_append, ih, length_levels]
    simp [pulseTicks, low, high]

end Sys2Proof.Machine
end

