-- ==== Sys2Proof/Tests/Slice0.lean ====
section
/-! SUPPORT. The model's own tests, their expected results taken from the tables and the vectors of the spec
(`30_encoding.md`, `95_test_vectors.md`), and a witness for the hypotheses of each statement. -/

namespace Sys2Proof.Tests

open Sys2Proof Sys2Proof.Machine

/-! ### Helpers -/

/-- The next state of an answer. -/
def after? (a : Answer) : Option State :=
  match a with
  | .next t => some t
  | _ => none

/-- The refusal of an answer. -/
def refusal? (a : Answer) : Option Refusal :=
  match a with
  | .refused r => some r
  | _ => none

/-- The fault of an answer. -/
def fault? (a : Answer) : Option Fault :=
  match a with
  | .fault e => some e
  | _ => none

/-- The registers that the vectors of `95_test_vectors.md` show of an end state. -/
def endOf (s : State) : Phase × Option FailKind × Nat × Int := (s.ph, s.err, s.hum.toNat, s.temp.toInt)

/-- A frame from its five bytes. -/
def bytes (a b c d e : Nat) : Frame where
  f0 := BitVec.ofNat 8 a
  f1 := BitVec.ofNat 8 b
  f2 := BitVec.ofNat 8 c
  f3 := BitVec.ofNat 8 d
  f4 := BitVec.ofNat 8 e

/-- A state that meets the invariant, for each phase, at the phase's first tick. -/
def sample (p : Phase) : State :=
  { State.reset with
    ph := p
    bitcnt := match p with
      | .validate => 40
      | .smGap => 1
      | _ => 0
    err := match p with
      | .failed => some .noResponse
      | _ => none
    hum := match p with
      | .done => 653
      | _ => 0
    temp := match p with
      | .done => 0x00ED
      | _ => 0
    lineOe := p == .hsLow || p == .hsRel
    lineOut := p != .hsLow }

theorem sample_inv (p : Phase) : Invariant (sample p) := by
  cases p <;> constructor <;> first | decide | exact frameFilled_of_zero rfl

/-- `s` with the environment's coming inputs replaced. -/
def fed (i : List Inputs) (s : State) : State := { s with inputs := i }

theorem fed_inv {s : State} (h : Invariant s) (i : List Inputs) : Invariant (fed i s) :=
  h.congr (sameRegisters.refl s)

/-- `n` ticks without a command, the line at `v`. -/
def steady (n : Nat) (v : Level) : List Inputs := List.replicate n (Inputs.quiet v)

/-! ### Well-formedness: each check refuses an ill-formed operation (R73) -/

theorem test_short_of_0_refused : (Instr.short 0).wellFormed = false := by decide
theorem test_short_of_26_refused : (Instr.short 26).wellFormed = false := by decide
theorem test_zero_of_25_refused : (Instr.zero 25).wellFormed = false := by decide
theorem test_zero_of_29_refused : (Instr.zero 29).wellFormed = false := by decide
theorem test_ambiguous_of_28_refused : (Instr.ambiguous 28).wellFormed = false := by decide
theorem test_ambiguous_of_70_refused : (Instr.ambiguous 70).wellFormed = false := by decide
theorem test_one_of_69_refused : (Instr.one 69).wellFormed = false := by decide
theorem test_one_of_100001_refused : (Instr.one 100001).wellFormed = false := by decide
theorem test_overlong_of_100000_refused : (Instr.overlong 100000).wellFormed = false := by decide

/-! ### Decoding, the words written out from `30_encoding.md` -/

/-- R78. -/
theorem test_decode_cmd :
    decode .cmd 0b10 = .ok (.reset false) ∧ decode .cmd 0b11 = .ok (.reset true) ∧
    decode .cmd 0b01 = .ok .decode ∧ decode .cmd 0b00 = .ok .nop := ⟨rfl, rfl, rfl, rfl⟩

/-- R74. -/
theorem test_decode_phase :
    decode .phase 0b0000 = .ok .idle ∧ decode .phase 0b0001 = .ok .hsLow ∧
    decode .phase 0b0010 = .ok .hsRel ∧ decode .phase 0b0011 = .ok .hsAck1 ∧
    decode .phase 0b0100 = .ok .hsAck2 ∧ decode .phase 0b0101 = .ok .smWaitLow ∧
    decode .phase 0b0110 = .ok .smWaitHigh ∧ decode .phase 0b0111 = .ok .smMeasure ∧
    decode .phase 0b1000 = .ok .smGap ∧ decode .phase 0b1001 = .ok .validate ∧
    decode .phase 0b1010 = .ok .done ∧ decode .phase 0b1011 = .ok .failed :=
  ⟨rfl, rfl, rfl, rfl, rfl, rfl, rfl, rfl, rfl, rfl, rfl, rfl⟩

/-- R73: both ends of each range. -/
theorem test_decode_pulse :
    decode .pulse 1 = .ok (.short 1) ∧ decode .pulse 25 = .ok (.short 25) ∧
    decode .pulse 26 = .ok (.zero 26) ∧ decode .pulse 28 = .ok (.zero 28) ∧
    decode .pulse 29 = .ok (.ambiguous 29) ∧ decode .pulse 69 = .ok (.ambiguous 69) ∧
    decode .pulse 70 = .ok (.one 70) ∧ decode .pulse 100000 = .ok (.one 100000) ∧
    decode .pulse 100001 = .ok (.overlong 100001) := ⟨rfl, rfl, rfl, rfl, rfl, rfl, rfl, rfl, rfl⟩

/-- R71, and E4 of `95_test_vectors.md`: humidity 0x0200, sign 1, magnitude 5, checksum 0x87. -/
theorem test_decode_frame :
    decode .frame 0b0000001000000000100000000000010110000111 =
      .ok (.frame 0x0200 true 5 0x87) := rfl

/-- R71, and E6: humidity 653, sign 0, magnitude 237, checksum 0x7C. -/
theorem test_decode_frame_positive :
    decode .frame 0b0000001010001101000000001110110101111100 = .ok (.frame 653 false 237 0x7C) := rfl

/-- R77. -/
theorem test_decode_lineop :
    decode .lineop 0b000 = .ok .setdirIn ∧ decode .lineop 0b001 = .ok .setdirOut ∧
    decode .lineop 0b010 = .ok .writeLow ∧ decode .lineop 0b011 = .ok .writeHigh ∧
    decode .lineop 0b100 = .ok .readLevel := ⟨rfl, rfl, rfl, rfl, rfl⟩

/-- R76. -/
theorem test_decode_fail :
    decode .fail 0b001 = .ok .failNoResponse ∧ decode .fail 0b010 = .ok .failProtocolViolation ∧
    decode .fail 0b011 = .ok .failTimeout ∧ decode .fail 0b100 = .ok .failMeasurement ∧
    decode .fail 0b101 = .ok .failChecksumError := ⟨rfl, rfl, rfl, rfl, rfl⟩

/-- The `FUNC` rows: `CLASSIFY` and `SHIFT_IN` are invoked in phase 0111, `CHECKSUM`, `CONV_HUM` and
`CONV_TEMP` in phase 1001, and none has a word of its own. -/
theorem test_func_rows :
    (invokedIn .classify).map Phase.code = some 0b0111 ∧
    (invokedIn (.shiftIn true)).map Phase.code = some 0b0111 ∧
    (invokedIn .checksum).map Phase.code = some 0b1001 ∧
    (invokedIn .convHum).map Phase.code = some 0b1001 ∧
    (invokedIn .convTemp).map Phase.code = some 0b1001 ∧
    encode .classify = none ∧ encode .convTemp = none := ⟨rfl, rfl, rfl, rfl, rfl, rfl, rfl⟩

/-- R70: a word with more bits than its format is rejected. -/
theorem test_too_wide :
    decode .frame (2 ^ 40) = .error .tooWide ∧ decode .phase 16 = .error .tooWide ∧
    decode .fail 8 = .error .tooWide ∧ decode .lineop 8 = .error .tooWide ∧
    decode .cmd 4 = .error .tooWide := ⟨rfl, rfl, rfl, rfl, rfl⟩

/-- Both spellings of a failure have one word. -/
theorem test_fail_spellings : encode (.fail .timeout) = encode .failTimeout := rfl

/-! ### Placing an operation and running it as the next tick -/

theorem test_table_words :
    decodeTableWord 2 0b01 = some .decode ∧ decodeTableWord 3 0b011 = some .writeHigh ∧
    decodeTableWord 8 0b0111 = some .smMeasure ∧ decodeTableWord 8 0b1100 = none ∧
    decodeTableWord 24 27 = some (.zero 27) ∧ decodeTableWord 24 0 = none ∧
    decodeTableWord 40 0x028D00ED7C = some (.frame 653 false 237 0x7C) := by decide

/-- A `PHASE` word after reset runs that phase: `VALIDATE` finds the all-zero frame valid (V-CV6). -/
theorem test_place_phase :
    (after? (step (State.reset.withFetchWord 8 0b1001))).map endOf = some (.done, none, 0, 0) := by decide

/-- A `CMD` word after reset runs that command (V-OR2). -/
theorem test_place_cmd :
    (after? (step (State.reset.withFetchWord 2 0b01))).map endOf = some (.hsLow, none, 0, 0) := by decide

/-- A `PULSE` word after reset is the tick that ends that pulse: a 1 goes into the frame. -/
theorem test_place_pulse :
    (after? (step (State.reset.withFetchWord 24 70))).map (fun t => (t.ph, t.bitcnt.toNat, t.f)) =
      some (.smGap, 1, bytes 1 0 0 0 0) := by decide

/-- A `FRAME` word after reset is the tick that decides on that frame (E4). -/
theorem test_place_frame :
    (after? (step (State.reset.withFetchWord 40 0x0200800587))).map endOf =
      some (.done, none, 512, -5) := by decide

/-! ### The functions (`95_test_vectors.md` section 3) -/

/-- V-CL1 to V-CL13. -/
theorem test_classify :
    [1, 25, 26, 27, 28, 29, 50, 69, 70, 71, 1000, 100000, 100001].map (classify Params.standard) =
      [.error, .error, .zero, .zero, .zero, .error, .error, .error, .one, .one, .one, .one,
        .timedOut] := by decide

/-- R126 with R124: the duration is `TMR` + 1. -/
theorem test_classify_op :
    (after? (execClassify { sample .smMeasure with tmr := 26 })).map (·.value) =
      some (.outcome .zero) := by decide

/-- V-SH2 and V-SH3: the last bit of a byte, and the first of the next. -/
theorem test_shift_in_byte_edge :
    (after? (execShiftIn false { State.reset with bitcnt := 7, f := bytes 1 0 0 0 0 })).map
      (fun t => (t.bitcnt.toNat, t.f)) = some (8, bytes 2 0 0 0 0) ∧
    (after? (execShiftIn true { State.reset with bitcnt := 8, f := bytes 2 0 0 0 0 })).map
      (fun t => (t.bitcnt.toNat, t.f)) = some (9, bytes 2 1 0 0 0) := by decide

/-- V-SH4 and V-SH5: the last bit of the second byte, and of the frame. -/
theorem test_shift_in_last :
    (after? (execShiftIn true { State.reset with bitcnt := 15, f := bytes 2 0x46 0 0 0 })).map
      (fun t => (t.bitcnt.toNat, t.f)) = some (16, bytes 2 0x8D 0 0 0) ∧
    (after? (execShiftIn false { State.reset with bitcnt := 39, f := bytes 2 0x8D 0 0xED 0x3E })).map
      (fun t => (t.bitcnt.toNat, t.f)) = some (40, bytes 2 0x8D 0 0xED 0x7C) := by decide

/-- V-CK1 to V-CK5. -/
theorem test_checksum :
    [bytes 2 0x8D 0 0xED 0x7C, bytes 2 0x8D 0 0xED 0x7D, bytes 0xFF 0xFF 0xFF 0xFF 0xFF,
      bytes 0 0 0 0 1, bytes 0xFF 0xFF 0xFF 0xFF 0xFC].map checksumOk =
      [true, false, false, false, true] := by decide

theorem test_checksum_op :
    (after? (execChecksum { State.reset with f := bytes 0 0 0 0 1 })).map (·.value) =
      some (.valid false) := by decide

/-- V-CV1, V-CV4, V-CV7. -/
theorem test_conv_hum :
    [bytes 2 0x8D 0 0xED 0x7C, bytes 0xFF 0xFF 0xFF 0xFF 0xFC, bytes 1 2 3 4 0xA].map
      (fun f => (after? (execConvHum { State.reset with f := f })).map (·.hum.toNat)) =
      [some 653, some 65535, some 258] := by decide

/-- V-CV1 to V-CV9. -/
theorem test_conv_temp :
    [bytes 2 0x8D 0 0xED 0x7C, bytes 2 0 0x80 5 0x87, bytes 0 0 0x80 0 0x80,
      bytes 0xFF 0xFF 0xFF 0xFF 0xFC, bytes 3 0xE8 0x81 0x90 0xFC, bytes 0 0 0 0 0,
      bytes 1 2 3 4 0xA, bytes 3 0xE8 3 0x20 0xE, bytes 0xFF 0xFF 0x7F 0xFF 0x7C].map
      (fun f => (after? (execConvTemp { State.reset with f := f })).map (·.temp)) =
      [some 0x00ED, some 0xFFFB, some 0, some 0x8001, some 0xFE70, some 0, some 0x0304, some 0x0320,
        some 0x7FFF] := by decide

/-- R52, R53: the forty bits of program P1's frame in the order of the line. -/
theorem test_frame_bits :
    (bytes 2 0x8D 0 0xED 0x7C).bits.map bitNat =
      [0,0,0,0,0,0,1,0, 1,0,0,0,1,1,0,1, 0,0,0,0,0,0,0,0, 1,1,1,0,1,1,0,1, 0,1,1,1,1,1,0,0] := by
  decide

/-! ### The phases: one tick each, from program P1 and the vectors of section 4 -/

/-- P1, tick 18000; and the tick before it. -/
theorem test_hs_low :
    (after? (execHsLow { sample .hsLow with tmr := 17999 })).map (fun t => (t.ph, t.lineOut, t.tmr)) =
      some (.hsRel, true, 0) ∧
    (after? (execHsLow { sample .hsLow with tmr := 17998 })).map (fun t => (t.ph, t.lineOut, t.tmr)) =
      some (.hsLow, false, 17999) := by decide

/-- P1, tick 18030. -/
theorem test_hs_rel :
    (after? (execHsRel { sample .hsRel with tmr := 29 })).map (fun t => (t.ph, t.lineOe, t.lineOut)) =
      some (.hsAck1, false, true) := by decide

/-- V-HS4 and V-HS1: the 80th sample reads low; reads high. -/
theorem test_hs_ack1_last_sample :
    (after? (execHsAck1 (fed (steady 1 false) { sample .hsAck1 with tmr := 79 }))).map endOf =
      some (.hsAck2, none, 0, 0) ∧
    (after? (execHsAck1 (fed (steady 1 true) { sample .hsAck1 with tmr := 79 }))).map endOf =
      some (.failed, some .noResponse, 0, 0) := by decide

/-- V-HS8 and V-HS9: the 80th sample reads high; reads low. -/
theorem test_hs_ack2_last_sample :
    (after? (execHsAck2 (fed (steady 1 true) { sample .hsAck2 with tmr := 79 }))).map endOf =
      some (.smWaitLow, none, 0, 0) ∧
    (after? (execHsAck2 (fed (steady 1 false) { sample .hsAck2 with tmr := 79 }))).map endOf =
      some (.failed, some .protocolViolation, 0, 0) := by decide

/-- V-TO1: the 100000th sample still reads high; and P1, tick 18201. -/
theorem test_sm_waitlow :
    (after? (execSmWaitLow (fed (steady 1 true) { sample .smWaitLow with tmr := 99999 }))).map endOf =
      some (.failed, some .timeout, 0, 0) ∧
    (after? (execSmWaitLow (fed (steady 1 false) { sample .smWaitLow with tmr := 79 }))).map
      (fun t => (t.ph, t.tmr)) = some (.smWaitHigh, 0) := by decide

/-- V-TO2; and P1, tick 18261. -/
theorem test_sm_waithigh :
    (after? (execSmWaitHigh (fed (steady 1 false) { sample .smWaitHigh with tmr := 99999 }))).map endOf =
      some (.failed, some .timeout, 0, 0) ∧
    (after? (execSmWaitHigh (fed (steady 1 true) { sample .smWaitHigh with tmr := 59 }))).map
      (fun t => (t.ph, t.tmr)) = some (.smMeasure, 0) := by decide

/-- V-PW7 and V-PW8: a pulse of 100000 ticks is a 1, one tick more is a `Timeout`. -/
theorem test_sm_measure_bound :
    (after? (execSmMeasure (fed (steady 1 false) { sample .smMeasure with tmr := 99999 }))).map
      (fun t => (t.ph, t.bitcnt.toNat, t.f)) = some (.smGap, 1, bytes 1 0 0 0 0) ∧
    (after? (execSmMeasure (fed (steady 1 true) { sample .smMeasure with tmr := 99999 }))).map endOf =
      some (.failed, some .timeout, 0, 0) := by decide

/-- V-PW1 and V-PW2: 25 ticks, 26 ticks. -/
theorem test_sm_measure_band :
    (after? (execSmMeasure (fed (steady 1 false) { sample .smMeasure with tmr := 24 }))).map endOf =
      some (.failed, some .measurement, 0, 0) ∧
    (after? (execSmMeasure (fed (steady 1 false) { sample .smMeasure with tmr := 25 }))).map
      (fun t => (t.ph, t.bitcnt.toNat, t.f)) = some (.smGap, 1, bytes 0 0 0 0 0) := by decide

/-- P1, ticks 18338 and 22419: the 50th tick of the delay, before and after the fortieth bit. -/
theorem test_sm_gap :
    (after? (execSmGap { sample .smGap with tmr := 49 })).map (·.ph) = some .smWaitLow ∧
    (after? (execSmGap { sample .smGap with tmr := 49, bitcnt := 40 })).map (·.ph) =
      some .validate := by decide

/-- V-OR7. -/
theorem test_validate :
    (after? (execValidate { sample .validate with f := bytes 2 0x8D 0 0xED 0x7C })).map
      (fun t => (endOf t, t.f, t.bitcnt.toNat)) = some ((.done, none, 653, 237), Frame.zero, 0) ∧
    (after? (execValidate { sample .validate with f := bytes 2 0x8D 0 0xED 0x7D })).map endOf =
      some (.failed, some .checksumError, 0, 0) := by decide

/-- V-OR1, V-OR4 and R190: nothing changes, whatever the line does. -/
theorem test_quiescent :
    execIdle (sample .idle) = .next (sample .idle) ∧ execDone (sample .done) = .next (sample .done) ∧
    execFailed (sample .failed) = .next (sample .failed) := ⟨rfl, rfl, rfl⟩

/-- `NOP` runs the rule of the phase: P1, tick 18030. -/
theorem test_nop :
    (after? (execNop { sample .hsRel with tmr := 29 })).map (·.ph) = some .hsAck1 := by decide

/-! ### Pulses and frames -/

/-- P5 and V-PW8. -/
theorem test_bad_pulses :
    (after? (execAmbiguous 50 (sample .smMeasure))).map endOf =
      some (.failed, some .measurement, 0, 0) ∧
    (after? (execShort 1 (sample .smMeasure))).map endOf = some (.failed, some .measurement, 0, 0) ∧
    (after? (execOverlong 100001 (sample .smMeasure))).map endOf =
      some (.failed, some .timeout, 0, 0) := by decide

/-- P1, bits 6 and 7. -/
theorem test_good_pulses :
    (after? (execOne 70 { sample .smMeasure with bitcnt := 6 })).map (fun t => (t.bitcnt.toNat, t.f)) =
      some (7, bytes 1 0 0 0 0) ∧
    (after? (execZero 27 { sample .smMeasure with bitcnt := 7, f := bytes 1 0 0 0 0 })).map
      (fun t => (t.bitcnt.toNat, t.f)) = some (8, bytes 2 0 0 0 0) := by decide

/-- V-CV5: humidity 1000, temperature −400. -/
theorem test_frame :
    (after? (execFrame 1000 true 400 0xFC (sample .validate))).map endOf =
      some (.done, none, 1000, -400) := by decide

/-! ### Commands -/

/-- V-OR5: the old reading is gone at the accepting tick. -/
theorem test_decode_after_done :
    (after? (execDecode (sample .done))).map (fun t => (endOf t, t.lineOe, t.lineOut)) =
      some ((.hsLow, none, 0, 0), true, false) := by decide

/-- V-OR3. -/
theorem test_decode_while_busy : refusal? (execDecode (sample .hsLow)) = some .startWhileBusy := by decide

/-- V-RS1: `rst` wins over `start`. -/
theorem test_reset_wins :
    (after? (step (fed [⟨true, true, false⟩] { sample .hsLow with tmr := 5 }))).map
      (fun t => (endOf t, t.tmr, t.lineOe, t.lineOut)) =
      some ((.idle, none, 0, 0), 0, false, true) := by decide

/-- V-RS2. -/
theorem test_reset_mid_pulse :
    (after? (execReset false { sample .smMeasure with tmr := 12, bitcnt := 17, f := bytes 2 0x8D 0 0 0 })).map
      (fun t => (endOf t, t.tmr, t.bitcnt, t.f)) = some ((.idle, none, 0, 0), 0, 0, Frame.zero) := by decide

/-! ### Line operations and failures -/

/-- R210 to R213 where they are valid. -/
theorem test_line_writes :
    (after? (execSetdirOut State.reset)).map (fun t => (t.lineOe, t.lineOut)) = some (true, true) ∧
    (after? (execSetdirIn (sample .hsRel))).map (fun t => (t.lineOe, t.lineOut)) = some (false, true) ∧
    (after? (execWriteLow (sample .hsRel))).map (·.lineOut) = some false ∧
    (after? (execWriteHigh (sample .hsLow))).map (·.lineOut) = some true := by decide

/-- R214, and U2 for each operation used in the wrong mode. -/
theorem test_line_modes :
    (after? (execReadLevel (fed (steady 1 true) State.reset))).map (·.value) = some (.level true) ∧
    refusal? (execReadLevel (sample .hsLow)) = some .readInOutputMode ∧
    refusal? (execWriteLow State.reset) = some .writeInInputMode := by decide

/-- V-LO1: the line operations of the ticks that issue any. -/
theorem test_line_ops_of_ticks :
    lineOpsOfTick (fed [⟨false, true, true⟩] State.reset) = [.setdirOut, .writeLow] ∧
    lineOpsOfTick (fed (steady 1 true) { sample .hsLow with tmr := 17999 }) = [.writeHigh] ∧
    lineOpsOfTick (fed (steady 1 true) { sample .hsRel with tmr := 29 }) = [.setdirIn] ∧
    lineOpsOfTick (fed (steady 1 true) (sample .smMeasure)) = [.readLevel] ∧
    lineOpsOfTick (fed (steady 1 true) (sample .smGap)) = [] := by decide

/-- R236 and R76: the kinds with their codes at the port `err`. -/
theorem test_failures :
    [execFailNoResponse, execFailProtocolViolation, execFailTimeout, execFailMeasurement,
      execFailChecksumError].map
      (fun e => (after? (e { sample .smMeasure with bitcnt := 3, tmr := 9 })).map
        (fun t => (t.ph, (outputs t).err.toNat, t.bitcnt, t.tmr))) =
      [some (.failed, 1, 0, 0), some (.failed, 2, 0, 0), some (.failed, 3, 0, 0),
        some (.failed, 4, 0, 0), some (.failed, 5, 0, 0)] := by decide

theorem test_fail_operand :
    (after? (execFail .measurement (sample .smMeasure))).map endOf =
      some (.failed, some .measurement, 0, 0) := by decide

/-- R34: the reading of E6 is (23.7, 65.3), of E4 (−0.5, 51.2). -/
theorem test_result :
    result (sample .done) = .done { temperature := 237 / 10, humidity := 653 / 10 } ∧
    result { sample .done with hum := 512, temp := 0xFFFB } =
      .done { temperature := -5 / 10, humidity := 512 / 10 } ∧
    result (sample .failed) = .failed .noResponse := by
  refine ⟨rfl, ?_, rfl⟩
  have h : (0xFFFB : Tenths).toInt = -5 := by decide
  have h' : (512 : Tenths).toNat = 512 := by decide
  simp only [result, sample, readingOf, h, h']
  norm_num

/-! ## Witnesses: a state and operands that meet the hypotheses of each statement

Where a statement has several clauses, each clause has its own, at the ends of its range. -/

/-- The caller's quiet ticks of a listed script. -/
theorem quiet_script (s : State) {ls : List Level} {n : Nat} (h : n ≤ ls.length) :
    QuietFor n (fed (quietInputs ls) s) :=
  quietFor_of_inputs (rest := []) (by simp [fed]) h

/-- The level of a listed script at a tick. -/
theorem line_script (s : State) {ls : List Level} {k : Nat} {v : Level} (h : ls[k]? = some v) :
    (upcoming (fed (quietInputs ls) s) k).lineIn = v :=
  lineIn_of_inputs (rest := []) (by simp [fed]) h

/-- The level of the `k`-th tick of a first run. -/
theorem first_run {n k : Nat} {v : Level} {r : List Level} (h : k < n) :
    (List.replicate n v ++ r)[k]? = some v := by
  rw [List.getElem?_append_left (by simpa using h)]
  exact List.getElem?_replicate_of_lt h

/-- The level of a tick after a first run. -/
theorem later_run {n k : Nat} {v : Level} {r : List Level} : (List.replicate n v ++ r)[n + k]? = r[k]? := by
  rw [List.getElem?_append_right (by simp)]
  simp

/-! ### Commands and the step -/

/-- A tick with `rst` and `start`. -/
def resetTick : State := fed [⟨true, true, true⟩] (sample .smMeasure)

theorem witness_ResetWritesEveryRegister :
    (currentInput resetTick).rst = true ∧ ∃ t, exec (.reset true) resetTick = .next t := ⟨rfl, _, rfl⟩

theorem witness_StateAfterReset :
    ∃ s r, (currentInput r).rst = true ∧ step r = .next s := ⟨_, resetTick, rfl, rfl⟩

theorem witness_DecodeBeginsAnAttempt :
    busy (sample .idle) = false ∧ busy (sample .done) = false ∧ busy (sample .failed) = false ∧
    ∃ t, exec .decode (sample .failed) = .next t := ⟨rfl, rfl, rfl, _, rfl⟩

theorem witness_StartWhileBusyIsRefused :
    ∃ s : State, busy s = true ∧ (currentInput s).rst = false ∧ (currentInput s).start = true :=
  ⟨fed [⟨false, true, true⟩] (sample .validate), rfl, rfl, rfl⟩

theorem witness_StepRunsTheDecodedOperation :
    ∃ (s : State) (i j : Instr),
      decode .cmd (cmdWord (currentInput s).rst (currentInput s).start) = .ok i ∧
      decode .phase s.ph.code = .ok j :=
  ⟨fed (steady 1 true) (sample .smMeasure), .nop, .smMeasure, rfl, rfl⟩

theorem witness_QuiescentPhasesHold :
    busy (sample .idle) = false ∧ (sample .idle).ph = .idle ∧ (sample .done).ph = .done ∧
    (sample .failed).ph = .failed ∧ (sample .failed).err = some .noResponse ∧
    (currentInput (fed (steady 1 true) (sample .done))).rst = false ∧
    (currentInput (fed (steady 1 true) (sample .done))).start = false := ⟨rfl, rfl, rfl, rfl, rfl, rfl, rfl⟩

/-! ### The handshake -/

theorem witness_HsLowHoldsTheLineLow :
    ∃ s t : State, elapsed s = s.cfg.tWake ∧ s.lineOe = true ∧ elapsed t ≠ t.cfg.tWake :=
  ⟨{ sample .hsLow with tmr := 17999 }, { sample .hsLow with tmr := 17998 }, by decide, rfl, by decide⟩

theorem witness_HsRelHoldsTheLineHigh :
    ∃ s t : State, elapsed s = s.cfg.tRelease ∧ elapsed t ≠ t.cfg.tRelease :=
  ⟨{ sample .hsRel with tmr := 29 }, { sample .hsRel with tmr := 28 }, by decide, by decide⟩

theorem witness_HsAck1WaitsForLow :
    ∃ s t u : State, s.lineOe = false ∧ lineIn s = false ∧
      t.lineOe = false ∧ lineIn t = true ∧ elapsed t = t.cfg.tAck ∧
      u.lineOe = false ∧ lineIn u = true ∧ elapsed u ≠ u.cfg.tAck :=
  ⟨fed (steady 1 false) { sample .hsAck1 with tmr := 79 }, fed (steady 1 true) { sample .hsAck1 with tmr := 79 },
    fed (steady 1 true) { sample .hsAck1 with tmr := 78 }, rfl, rfl, rfl, rfl, by decide, rfl, rfl, by decide⟩

theorem witness_HsAck2WaitsForHigh :
    ∃ s t u : State, s.lineOe = false ∧ lineIn s = true ∧
      t.lineOe = false ∧ lineIn t = false ∧ elapsed t = t.cfg.tAck ∧
      u.lineOe = false ∧ lineIn u = false ∧ elapsed u ≠ u.cfg.tAck :=
  ⟨fed (steady 1 true) { sample .hsAck2 with tmr := 79 }, fed (steady 1 false) { sample .hsAck2 with tmr := 79 },
    fed (steady 1 false) { sample .hsAck2 with tmr := 78 }, rfl, rfl, rfl, rfl, by decide, rfl, rfl, by decide⟩

/-- A phase that holds, at its first tick, with as many quiet ticks as it lasts. -/
theorem hold_witness (p : Phase) (hp : p = .hsLow ∨ p = .hsRel ∨ p = .smGap) :
    ∃ s : State, Invariant s ∧ s.tmr = 0 ∧ s.ph = p ∧ QuietFor (tmrBound s.cfg s.ph) s := by
  refine ⟨fed (steady 18000 true) (sample p), fed_inv (sample_inv p) _, rfl, rfl, ?_⟩
  refine quietFor_of_replicate (v := true) rfl ?_
  rcases hp with rfl | rfl | rfl <;> decide

theorem witness_HoldsLastExactly :
    (∃ s : State, Invariant s ∧ s.tmr = 0 ∧ s.ph = .hsLow ∧ QuietFor (tmrBound s.cfg s.ph) s) ∧
    (∃ s : State, Invariant s ∧ s.tmr = 0 ∧ s.ph = .hsRel ∧ QuietFor (tmrBound s.cfg s.ph) s) ∧
    ∃ s : State, Invariant s ∧ s.tmr = 0 ∧ s.ph = .smGap ∧ QuietFor (tmrBound s.cfg s.ph) s :=
  ⟨hold_witness _ (by decide), hold_witness _ (by decide), hold_witness _ (by decide)⟩

/-- A wait whose sample `e` is the first to read the wanted level. -/
theorem satisfied_witness {p : Phase} {w : Level} {b : Nat} {k : FailKind} {e : Nat}
    (hw : waitOf Params.standard p = some (w, b, k)) (h1 : 1 ≤ e) (h2 : e ≤ b) :
    ∃ s : State, Invariant s ∧ waitOf s.cfg s.ph = some (w, b, k) ∧ s.tmr = 0 ∧ 1 ≤ e ∧ e ≤ b ∧ QuietFor e s ∧
      LineReads (!w) (e - 1) s ∧ (upcoming s (e - 1)).lineIn = w := by
  refine ⟨fed (quietInputs (List.replicate (e - 1) (!w) ++ [w])) (sample p), fed_inv (sample_inv p) _, hw,
    rfl, h1, h2, quiet_script _ (by simp; omega), fun j hj => line_script _ (first_run hj), ?_⟩
  exact line_script _ (later_run (k := 0))

theorem witness_BoundedWaitIsSatisfied :
    (∃ s : State, Invariant s ∧ waitOf s.cfg s.ph = some (false, 80, .noResponse) ∧ s.tmr = 0 ∧ 1 ≤ 1 ∧ 1 ≤ 80 ∧
      QuietFor 1 s ∧ LineReads (!false) (1 - 1) s ∧ (upcoming s (1 - 1)).lineIn = false) ∧
    ∃ s : State, Invariant s ∧ waitOf s.cfg s.ph = some (true, 100000, .timeout) ∧ s.tmr = 0 ∧ 1 ≤ 100000 ∧
      100000 ≤ 100000 ∧ QuietFor 100000 s ∧ LineReads (!true) (100000 - 1) s ∧
      (upcoming s (100000 - 1)).lineIn = true :=
  ⟨satisfied_witness (p := .hsAck1) rfl (by decide) (by decide),
    satisfied_witness (p := .smWaitHigh) rfl (by decide) (by decide)⟩

/-- A wait none of whose samples reads the wanted level. -/
theorem expired_witness {p : Phase} {w : Level} {b : Nat} {k : FailKind}
    (hw : waitOf Params.standard p = some (w, b, k)) :
    ∃ s : State, Invariant s ∧ waitOf s.cfg s.ph = some (w, b, k) ∧ s.tmr = 0 ∧ QuietFor b s ∧
      LineReads (!w) b s :=
  ⟨fed (steady b (!w)) (sample p), fed_inv (sample_inv p) _, hw, rfl,
    quietFor_of_replicate (v := !w) rfl (Nat.le_refl _), lineReads_of_replicate rfl (Nat.le_refl _)⟩

theorem witness_BoundedWaitExpires :
    (∃ s : State, Invariant s ∧ waitOf s.cfg s.ph = some (true, 80, .protocolViolation) ∧ s.tmr = 0 ∧
      QuietFor 80 s ∧ LineReads (!true) 80 s) ∧
    ∃ s : State, Invariant s ∧ waitOf s.cfg s.ph = some (false, 100000, .timeout) ∧ s.tmr = 0 ∧
      QuietFor 100000 s ∧ LineReads (!false) 100000 s :=
  ⟨expired_witness (p := .hsAck2) rfl, expired_witness (p := .smMeasure) rfl⟩

/-- The line of a handshake: `p` ticks high, then `a` low, then high. -/
def shakeLine (p a : Nat) : State :=
  fed (quietInputs (List.replicate p true ++ (List.replicate a false ++ List.replicate 160 true)))
    (sample .hsAck1)

theorem shakeLine_base (p a : Nat) :
    Invariant (shakeLine p a) ∧ (shakeLine p a).ph = .hsAck1 ∧ (shakeLine p a).tmr = 0 ∧
      QuietFor (2 * (shakeLine p a).cfg.tAck) (shakeLine p a) :=
  ⟨fed_inv (sample_inv _) _, rfl, rfl, quiet_script _ (by
    rw [List.length_append, List.length_append, List.length_replicate, List.length_replicate,
      List.length_replicate]
    show 2 * 80 ≤ _
    omega)⟩

/-- The clause about the ticks in between: a handshake line with no command for 160 ticks. -/
theorem witness_HandshakeOutcome_input_mode : ∃ n, 1 ≤ n ∧ QuietFor n (shakeLine 79 81) :=
  ⟨2 * 80, by omega, (shakeLine_base 79 81).2.2.2⟩

/-- V-HS1: no answer. V-HS4 with a line that then stays low: the first low sample is the eightieth, and
eighty low samples follow. V-HS4 with V-HS8: the first low sample is the eightieth, and the eightieth after
it is the first high one. -/
theorem witness_HandshakeOutcome :
    LineReads true 80 (shakeLine 80 0) ∧
    (LineReads true (80 - 1) (shakeLine 79 81) ∧ (upcoming (shakeLine 79 81) (80 - 1)).lineIn = false ∧
      ∀ k, k < 80 → (upcoming (shakeLine 79 81) (80 + k)).lineIn = false) ∧
    (LineReads true (80 - 1) (shakeLine 79 80) ∧ (upcoming (shakeLine 79 80) (80 - 1)).lineIn = false ∧
      (∀ k, k < 80 - 1 → (upcoming (shakeLine 79 80) (80 + k)).lineIn = false) ∧
      (upcoming (shakeLine 79 80) (80 + 80 - 1)).lineIn = true) := by
  have low {a k : Nat} (h : k < a) : (upcoming (shakeLine 79 a) (79 + k)).lineIn = false :=
    line_script _ (by rw [later_run]; exact first_run h)
  refine ⟨fun k hk => line_script _ (first_run hk), ⟨?_, ?_, ?_⟩, ?_, ?_, ?_, ?_⟩
  · exact fun k hk => line_script _ (first_run (by omega))
  · exact low (k := 0) (by omega)
  · intro k hk
    have := low (a := 81) (k := k + 1) (by omega)
    rwa [show 79 + (k + 1) = 80 + k by omega] at this
  · exact fun k hk => line_script _ (first_run (by omega))
  · exact low (k := 0) (by omega)
  · intro k hk
    have := low (a := 80) (k := k + 1) (by omega)
    rwa [show 79 + (k + 1) = 80 + k by omega] at this
  · refine line_script _ ?_
    rw [show 80 + 80 - 1 = 79 + (80 + 0) by omega, later_run, later_run]
    exact List.getElem?_replicate_of_lt (by omega)

/-- A reset core, a request at its first tick, then quiet ticks with the line at `v`. -/
def requested (n : Nat) (v : Level) (p : Phase) : State := fed (⟨false, true, v⟩ :: steady n v) (sample p)

theorem requested_later {n k : Nat} {v : Level} {p : Phase} (h1 : 1 ≤ k) (h2 : k ≤ n) :
    upcoming (requested n v p) k = Inputs.quiet v := by
  obtain ⟨j, rfl⟩ : ∃ j, k = j + 1 := ⟨k - 1, by omega⟩
  have : (requested n v p).inputs[j + 1]? = some (Inputs.quiet v) := by
    show (⟨false, true, v⟩ :: steady n v)[j + 1]? = _
    rw [List.getElem?_cons_succ]
    exact List.getElem?_replicate_of_lt (by omega)
  simp only [upcoming, this]

/-- Program P2: no sensor on a line that rests high. -/
theorem witness_NoResponseAtItsTick :
    ∃ s : State, s.cfg.Conforming ∧ busy s = false ∧ (currentInput s).rst = false ∧
      (currentInput s).start = true ∧
      (∀ k, 1 ≤ k → k ≤ s.cfg.tWake + s.cfg.tRelease + s.cfg.tAck →
        (upcoming s k).rst = false ∧ (upcoming s k).start = false) ∧
      ∀ k, s.cfg.tWake + s.cfg.tRelease < k → k ≤ s.cfg.tWake + s.cfg.tRelease + s.cfg.tAck →
        (upcoming s k).lineIn = true := by
  refine ⟨requested 18110 true .failed, (sample_inv .failed).conforming, rfl, rfl, rfl, fun k h1 h2 => ?_,
    fun k h1 h2 => ?_⟩
  · change k ≤ 18110 at h2
    rw [requested_later h1 h2]; exact ⟨rfl, rfl⟩
  · change k ≤ 18110 at h2
    rw [requested_later (by omega) h2]; rfl

/-! ### The sampler -/

theorem witness_SmWaitLowWaitsForLow :
    ∃ s t u : State, s.lineOe = false ∧ lineIn s = false ∧
      t.lineOe = false ∧ lineIn t = true ∧ elapsed t = t.cfg.tTimeout ∧
      u.lineOe = false ∧ lineIn u = true ∧ elapsed u ≠ u.cfg.tTimeout :=
  ⟨fed (steady 1 false) { sample .smWaitLow with tmr := 99999 },
    fed (steady 1 true) { sample .smWaitLow with tmr := 99999 },
    fed (steady 1 true) { sample .smWaitLow with tmr := 99998 }, rfl, rfl, rfl, rfl, by decide, rfl, rfl,
    by decide⟩

theorem witness_SmWaitHighWaitsForHigh :
    ∃ s t u : State, s.lineOe = false ∧ lineIn s = true ∧
      t.lineOe = false ∧ lineIn t = false ∧ elapsed t = t.cfg.tTimeout ∧
      u.lineOe = false ∧ lineIn u = false ∧ elapsed u ≠ u.cfg.tTimeout :=
  ⟨fed (steady 1 true) { sample .smWaitHigh with tmr := 99999 },
    fed (steady 1 false) { sample .smWaitHigh with tmr := 99999 },
    fed (steady 1 false) { sample .smWaitHigh with tmr := 99998 }, rfl, rfl, rfl, rfl, by decide, rfl, rfl,
    by decide⟩

/-- `SM_MEASURE` at the tick that samples a pulse of `n + 1` ticks, with `b` bits in. -/
def measuring (n : BitVec 17) (b : BitVec 6) (v : Level) : State :=
  fed (steady 1 v) { sample .smMeasure with tmr := n, bitcnt := b }

/-- The band edges 26, 28, 70 and 100000, then 25, 29 and 69, then the bound with the line still high, and
the sample before it. -/
theorem witness_SmMeasureTimesThePulse :
    (measuring 25 39 false).lineOe = false ∧ (measuring 25 39 false).bitcnt.toNat ≤ 39 ∧
    ([25, 27].map fun n => classify Params.standard (elapsed (measuring n 39 false))) = [.zero, .zero] ∧
    ([69, 99999].map fun n => classify Params.standard (elapsed (measuring n 39 false))) = [.one, .one] ∧
    ([24, 28, 68].map fun n => classify Params.standard (elapsed (measuring n 39 false))) =
      [.error, .error, .error] ∧
    lineIn (measuring 25 39 false) = false ∧ lineIn (measuring 99999 0 true) = true ∧
    elapsed (measuring 99999 0 true) = (measuring 99999 0 true).cfg.tTimeout ∧
    elapsed (measuring 99998 0 true) ≠ (measuring 99998 0 true).cfg.tTimeout := by decide

theorem witness_SmMeasurePastTheBound :
    ∃ s : State, s.cfg.Conforming ∧ s.lineOe = false ∧ lineIn s = false ∧ s.cfg.tTimeout < elapsed s :=
  ⟨measuring 100000 0 false, by decide, rfl, rfl, by decide⟩

theorem witness_ClassifyFollowsTheBands :
    Params.standard.Conforming ∧ ({ Params.standard with tRelease := 20 } : Params).Conforming ∧
    ({ Params.standard with tRelease := 40 } : Params).Conforming ∧ 1 ≤ 1 ∧ 100000 ≤ 100000 := by decide

theorem witness_PulseSymbolsActByWidth :
    (sample .smMeasure).cfg.Conforming ∧ (measuring 0 39 false).bitcnt.toNat ≤ 39 ∧
    (1 ≤ 1 ∧ 25 ≤ 25) ∧ (29 ≤ 29 ∧ 69 ≤ 69) ∧ 100000 < 100001 ∧ (26 ≤ 26 ∧ 28 ≤ 28) ∧
    (70 ≤ 70 ∧ 100000 ≤ 100000) := by decide

theorem witness_PulseIsItsDecidingTick :
    (sample .idle).cfg.Conforming ∧ (sample .idle).lineOe = false ∧ 1 ≤ 1 := by decide

/-- The longest pulse that is a 1: high at `SM_WAITHIGH`'s sample and 99999 more, then low. -/
theorem witness_PulseDurationIsMeasured :
    (∃ s : State, Invariant s ∧ s.ph = .smWaitHigh ∧ (upcoming s 0).lineIn = true ∧ 1 ≤ 100000 ∧
      100000 ≤ s.cfg.tTimeout ∧ QuietFor (100000 + 1) s ∧ LineReads true 100000 s ∧
      (upcoming s 100000).lineIn = false) ∧
    ∃ s : State, Invariant s ∧ s.ph = .smWaitHigh ∧ (upcoming s 0).lineIn = true ∧
      QuietFor (s.cfg.tTimeout + 1) s ∧ LineReads true (s.cfg.tTimeout + 1) s := by
  refine ⟨⟨fed (quietInputs (List.replicate 100000 true ++ [false])) (sample .smWaitHigh),
    fed_inv (sample_inv _) _, rfl, line_script _ (first_run (by omega)), by decide, by decide,
    quiet_script _ (by rw [List.length_append, List.length_replicate]; exact Nat.le_refl _),
    fun k hk => line_script _ (first_run hk), ?_⟩,
    ⟨fed (steady 100001 true) (sample .smWaitHigh), fed_inv (sample_inv _) _, rfl, ?_, ?_, ?_⟩⟩
  · exact line_script _ (later_run (k := 0))
  · exact lineReads_of_replicate (v := true) (n := 1) rfl (by omega) 0 (by omega)
  · exact quietFor_of_replicate (v := true) rfl (by decide)
  · exact lineReads_of_replicate rfl (by decide)

theorem witness_SmGapHoldsAndLoops :
    ∃ s t u : State, elapsed s = s.cfg.tGap ∧ s.bitcnt.toNat = s.cfg.nBits ∧
      elapsed t = t.cfg.tGap ∧ t.bitcnt.toNat ≠ t.cfg.nBits ∧ elapsed u ≠ u.cfg.tGap :=
  ⟨{ sample .smGap with tmr := 49, bitcnt := 40 }, { sample .smGap with tmr := 49, bitcnt := 39 },
    { sample .smGap with tmr := 48 }, by decide, by decide, by decide, by decide, by decide⟩

/-- V-GAP1's low run of 51 ticks, with a pulse of 26. -/
theorem witness_ShortLowRunSwallowsAPulse :
    ∃ s : State, Invariant s ∧ s.ph = .smGap ∧ s.tmr = 0 ∧ s.bitcnt.toNat < 40 ∧ 1 ≤ 51 ∧ 51 < s.cfg.tGap + 2 ∧
      s.cfg.tGap + 2 ≤ 51 + 26 ∧ 51 + 26 ≤ s.cfg.tGap + s.cfg.tTimeout ∧ QuietFor (51 + 26) s ∧
      (∀ k, 51 - 1 ≤ k → k < 51 - 1 + 26 → (upcoming s k).lineIn = true) ∧
      (upcoming s (51 - 1 + 26)).lineIn = false := by
  refine ⟨fed (quietInputs (List.replicate 50 false ++ (List.replicate 26 true ++ [false]))) (sample .smGap),
    fed_inv (sample_inv _) _, rfl, rfl, by decide, by decide, by decide, by decide, by decide,
    quiet_script _ (by simp), fun k h1 h2 => ?_, ?_⟩
  · obtain ⟨j, rfl⟩ : ∃ j, k = 50 + j := ⟨k - 50, by omega⟩
    exact line_script _ (by rw [later_run]; exact first_run (by omega))
  · refine line_script _ ?_
    rw [show 51 - 1 + 26 = 50 + (26 + 0) by omega, later_run, later_run]
    rfl

/-- Forty pulses of a frame: first low run `l0`, later ones `l`, widths `z` and `o`. -/
def evenPulses (f : Frame) (l0 l z o : Nat) : List Pulse :=
  (List.range 40).map fun k => { lowRun := if k = 0 then l0 else l, width := if f.bit k then o else z }

theorem evenPulses_legal (f : Frame) {l0 l z o : Nat} (hz : classify Params.standard z = .zero)
    (ho : classify Params.standard o = .one) (h1 : 1 ≤ l0) (h2 : l0 ≤ 100000) (h3 : 52 ≤ l)
    (h4 : l ≤ 100050) : LegalPulses Params.standard f (evenPulses f l0 l z o) := by
  refine ⟨by simp [evenPulses], fun k p hk => ?_⟩
  simp only [evenPulses, List.getElem?_map, Option.map_eq_some_iff] at hk
  obtain ⟨j, hj, rfl⟩ := hk
  obtain ⟨hjk, rfl⟩ := List.getElem?_eq_some_iff.1 hj
  simp only [List.getElem_range]
  refine ⟨?_, fun h => ?_, fun h => ?_⟩
  · cases f.bit k <;> simp [hz, ho]
  · simp only [h, if_true]; exact ⟨h1, h2⟩
  · rw [if_neg (by omega)]; exact ⟨h3, h4⟩

/-- The state of `LegalLineIsDecoded` for pulses `ps` after `h` high samples. -/
theorem legal_line (f : Frame) (ps : List Pulse) (h : Nat) (hl : LegalPulses Params.standard f ps)
    (hh : h < 100000) :
    ∃ (s : State) (rest : List Inputs), Invariant s ∧ s.ph = .smWaitLow ∧ s.tmr = 0 ∧ s.bitcnt = 0 ∧
      LegalPulses s.cfg f ps ∧ h < s.cfg.tTimeout ∧
      s.inputs = quietInputs (levels (high h :: pulseRuns ps ++ [low 1])) ++ rest ∧
      QuietFor (h + pulseTicks ps + 1 + s.cfg.tGap + 1) s := by
  have hin : quietInputs (levels (high h :: pulseRuns ps ++ [low 1]) ++ List.replicate 51 false) =
      quietInputs (levels (high h :: pulseRuns ps ++ [low 1])) ++ quietInputs (List.replicate 51 false) := by
    simp [quietInputs]
  refine ⟨fed (quietInputs (levels (high h :: pulseRuns ps ++ [low 1]) ++ List.replicate 51 false))
    (sample .smWaitLow), _, fed_inv (sample_inv _) _, rfl, rfl, rfl, hl, hh, hin, quiet_script _ ?_⟩
  have h1 : (levels (high h :: pulseRuns ps ++ [low 1])).length = h + pulseTicks ps + 1 := by
    rw [List.cons_append, ← List.singleton_append, levels_append, levels_append, List.length_append,
      List.length_append, length_pulseRuns, length_levels, length_levels]
    simp [low, high]; omega
  rw [List.length_append, h1, List.length_replicate]
  show h + pulseTicks ps + 1 + 50 + 1 ≤ _
  omega

/-- The shortest runs and pulses that decode, and the longest, for a frame with bits of both kinds. -/
theorem witness_LegalLineIsDecoded :
    (∃ (s : State) (rest : List Inputs), Invariant s ∧ s.ph = .smWaitLow ∧ s.tmr = 0 ∧ s.bitcnt = 0 ∧
      LegalPulses s.cfg (bytes 2 0x8D 0 0xED 0x7C) (evenPulses (bytes 2 0x8D 0 0xED 0x7C) 1 52 26 70) ∧
      0 < s.cfg.tTimeout ∧
      s.inputs = quietInputs (levels (high 0 ::
        pulseRuns (evenPulses (bytes 2 0x8D 0 0xED 0x7C) 1 52 26 70) ++ [low 1])) ++ rest ∧
      QuietFor (0 + pulseTicks (evenPulses (bytes 2 0x8D 0 0xED 0x7C) 1 52 26 70) + 1 + s.cfg.tGap + 1) s) ∧
    ∃ (s : State) (rest : List Inputs), Invariant s ∧ s.ph = .smWaitLow ∧ s.tmr = 0 ∧ s.bitcnt = 0 ∧
      LegalPulses s.cfg (bytes 2 0x8D 0 0xED 0x7D)
        (evenPulses (bytes 2 0x8D 0 0xED 0x7D) 100000 100050 28 100000) ∧
      99999 < s.cfg.tTimeout ∧
      s.inputs = quietInputs (levels (high 99999 ::
        pulseRuns (evenPulses (bytes 2 0x8D 0 0xED 0x7D) 100000 100050 28 100000) ++ [low 1])) ++ rest ∧
      QuietFor (99999 + pulseTicks (evenPulses (bytes 2 0x8D 0 0xED 0x7D) 100000 100050 28 100000) + 1 +
        s.cfg.tGap + 1) s :=
  ⟨legal_line _ _ 0 (evenPulses_legal _ (by decide) (by decide) (by decide) (by decide) (by decide)
      (by decide)) (by decide),
    legal_line _ _ 99999 (evenPulses_legal _ (by decide) (by decide) (by decide) (by decide) (by decide)
      (by decide)) (by decide)⟩

/-! ### The frame, the converter, the end of an attempt -/

theorem witness_ShiftInPacksABit :
    (sample .smMeasure).bitcnt.toNat ≤ 39 ∧ (measuring 26 39 false).bitcnt.toNat ≤ 39 := by decide

theorem witness_StatesOutsideTheMachineStop :
    40 ≤ (measuring 26 40 false).bitcnt.toNat ∧
    (readsLine (sample .hsAck1).ph = true ∧ ({ sample .hsAck1 with lineOe := true } : State).lineOe = true) ∧
    elapsed { sample .hsLow with tmr := 17999, lineOe := false } = (sample .hsLow).cfg.tWake := by decide

theorem witness_FortyShiftsFillTheFrame :
    ∃ (s : State) (bits : List Bool), bits.length = 40 ∧ s.bitcnt = 0 ∧ s.f = Frame.zero :=
  ⟨State.reset, (bytes 2 0x8D 0 0xED 0x7C).bits, by decide, rfl, rfl⟩

/-- R152's example: the forty bits give 02 8D 00 ED 7C. -/
theorem witness_FrameIsOneWord :
    (after? (shiftAll (bytes 2 0x8D 0 0xED 0x7C).bits State.reset)).map (fun t => (t.f, t.bitcnt.toNat)) =
      some (bytes 2 0x8D 0 0xED 0x7C, 40) := by decide

theorem witness_ValidateConvertsOrFails :
    checksumOk (bytes 2 0x8D 0 0xED 0x7C) = true ∧ checksumOk (bytes 2 0x8D 0 0xED 0x7D) = false := by decide

theorem witness_ChecksumComparesTheLowByte : checksumOk (bytes 0xFF 0xFF 0xFF 0xFF 0xFF) = false := by decide

theorem witness_ConvTempAppliesTheSign :
    (bytes 0 0 127 255 0).f2.toNat < 128 ∧ 128 ≤ (bytes 0 0 128 0 0).f2.toNat ∧
    128 ≤ (bytes 0 0 255 255 0).f2.toNat := by decide

theorem witness_ValidFramesConvertExactly :
    ((bytes 2 0 0x80 5 0x87).f0.toNat + (bytes 2 0 0x80 5 0x87).f1.toNat + (bytes 2 0 0x80 5 0x87).f2.toNat +
        (bytes 2 0 0x80 5 0x87).f3.toNat) % 256 = (bytes 2 0 0x80 5 0x87).f4.toNat ∧
    (-1 : Int) = (if 128 ≤ (bytes 2 0 0x80 5 0x87).f2.toNat then -1 else 1) ∧
    (1 : Int) = (if 128 ≤ (bytes 2 0x8D 0x7F 0xED 0xFB).f2.toNat then -1 else 1) := by decide

theorem witness_FrameFieldsDecideTheReading :
    (0x200 / 256 + 0x200 % 256 + (128 * bitNat true + 5 / 256) + 5 % 256) % 256 = 0x87 ∧
    (0x200 / 256 + 0x200 % 256 + (128 * bitNat true + 5 / 256) + 5 % 256) % 256 ≠ 0x86 := by decide

/-- A busy tick without `rst` that has a next state, for the last sample of each wait and the other two
causes. -/
theorem witness_EachFailureHasItsCause :
    ∃ s t : State, Invariant s ∧ busy s = true ∧ (currentInput s).rst = false ∧ step s = .next t ∧
      s.ph = .hsAck1 ∧ lineIn s = true ∧ elapsed s = s.cfg.tAck := by
  refine ⟨fed (steady 1 true) { sample .hsAck1 with tmr := 79 }, _, fed_inv ?_ _, rfl, rfl, rfl, rfl, rfl,
    by decide⟩
  constructor <;> first | decide | exact frameFilled_of_zero rfl

/-- `VALIDATE` with the empty frame, which is valid. -/
def validating : State := fed (steady 1 true) (sample .validate)

theorem witness_ReadingOnlyFromAValidFrame :
    ∃ s t : State, Invariant s ∧ step s = .next t ∧ t.ph = .done ∧ s.ph ≠ .done :=
  ⟨validating, _, fed_inv (sample_inv _) _, rfl, rfl, by decide⟩

theorem witness_ReadingOnlyFromAValidFrame_held :
    ∃ s t u v : State, Invariant s ∧ step s = .next t ∧ t.ph = .done ∧ s.ph = .done ∧
      Invariant u ∧ step u = .next v ∧ v.ph = .failed :=
  ⟨fed (steady 1 true) (sample .done), _, fed (steady 1 true) (sample .failed), _,
    fed_inv (sample_inv _) _, rfl, rfl, rfl, fed_inv (sample_inv _) _, rfl, rfl⟩

/-! ### The line operations, frames and whole-machine rules -/

theorem witness_LineOperationsActOnThePorts :
    (sample .hsLow).lineOe = true ∧ (sample .idle).lineOe = false := ⟨rfl, rfl⟩

theorem witness_TicksIssueTheirLineOperations :
    ∃ s t : State, Invariant s ∧ (currentInput s).rst = false ∧ step s = .next t ∧
      (.writeLow ∈ lineOpsOfTick s) ∧ t.ph = .hsLow :=
  ⟨requested 1 true .idle, _, fed_inv (sample_inv _) _, rfl, rfl, by decide, rfl⟩

theorem witness_LineIsIgnoredWhereNotRead :
    readsLine (sample .hsLow).ph = false ∧ readsLine (sample .smGap).ph = false := ⟨rfl, rfl⟩

theorem witness_PhasesChangeOnlyTheirRegisters :
    ∃ s t u v : State, exec .nop s = .next t ∧ t.ph ≠ .failed ∧ s.ph = .smMeasure ∧
      exec u.ph.instr u = .next v ∧ v.ph = .failed ∧ u.ph ≠ .failed :=
  ⟨measuring 26 0 false, _, measuring 49 0 false, _, rfl, by decide, rfl, rfl, rfl, by decide⟩

theorem witness_PulsesChangeOnlyTheirRegisters :
    ∃ s t u : State, exec (.one 70) s = .next t ∧ t.ph = .smGap ∧ exec (.short 25) s = .next u ∧
      u.ph ≠ .smGap :=
  ⟨sample .smMeasure, _, _, rfl, rfl, rfl, by decide⟩

theorem witness_ParametersNeverChange :
    ∃ s t : State, exec .validate s = .next t ∧ ∃ u, step s = .next u ∧ RunsTo 1 s u :=
  ⟨validating, _, rfl, _, rfl, runsTo_one.2 rfl⟩

theorem witness_OperationsLeaveTheEnvironment :
    ∃ s t : State, exec .readLevel s = .next t := ⟨fed (steady 1 true) State.reset, _, rfl⟩

theorem witness_EveryTickKeepsTheInvariant :
    ∃ s t : State, Invariant s ∧ step s = .next t := ⟨validating, _, fed_inv (sample_inv _) _, rfl⟩

theorem witness_OnlyStartWhileBusyStops : Invariant validating := fed_inv (sample_inv _) _

theorem witness_NopRunsThePhaseRule (p : Phase) : Invariant (sample p) := sample_inv p

theorem witness_TransfersOfControl :
    (∃ s t : State, step s = .next t ∧ (currentInput s).rst = true) ∧
    ∃ s t : State, step s = .next t ∧ (currentInput s).rst = false ∧ t.ph ≠ s.ph :=
  ⟨⟨resetTick, _, rfl, rfl⟩, validating, _, rfl, rfl, by decide⟩

theorem witness_EveryAttemptEnds :
    ∃ s : State, s.cfg.Conforming ∧ busy s = false ∧ (currentInput s).rst = false ∧
      (currentInput s).start = true ∧
      ∀ k, 1 ≤ k → k ≤ lastTick s.cfg → (upcoming s k).rst = false ∧ (upcoming s k).start = false := by
  refine ⟨requested (lastTick Params.standard) false .done, (sample_inv .done).conforming, rfl, rfl, rfl,
    fun k h1 h2 => ?_⟩
  change k ≤ lastTick Params.standard at h2
  rw [requested_later h1 h2]
  exact ⟨rfl, rfl⟩

/-- Two cores, one reset and one with an old reading, and the same request. -/
theorem witness_AttemptsAreIndependent :
    ∃ (s₁ s₂ t : State), busy s₁ = false ∧ busy s₂ = false ∧ s₁.cfg = s₂.cfg ∧ s₁.ph ≠ s₂.ph ∧
      (currentInput s₁).rst = false ∧ (currentInput s₁).start = true ∧
      (∀ k, k < 0 + 1 → upcoming s₁ k = upcoming s₂ k) ∧ RunsTo (0 + 1) s₁ t :=
  ⟨requested 1 true .idle, requested 1 true .done, _, rfl, rfl, rfl, by decide, rfl, rfl, fun _ _ => rfl,
    runsTo_one.2 rfl⟩

/-! ### Encoding -/

theorem witness_DecodeReadsBackEncode :
    (Instr.one 100000).wellFormed = true ∧ encode (.one 100000) = some ⟨.pulse, 100000⟩ ∧
    (Instr.frame 0xFFFF true 0x7FFF 0xFF).wellFormed = true ∧
    encode (.frame 0xFFFF true 0x7FFF 0xFF) = some ⟨.frame, 2 ^ 40 - 1⟩ := by decide

theorem witness_EncodeGivesBackTheWord :
    ∃ i, decode .frame (2 ^ 40 - 1) = .ok i := ⟨_, rfl⟩

theorem witness_UnusedCodesAreRejected :
    (12 ≤ 12 ∧ 15 ≤ 15) ∧ (6 ≤ 6 ∧ 7 ≤ 7) ∧ (5 ≤ 5 ∧ 7 ≤ 7) := by decide

/-! ### The ports -/

/-- Ports by R21, R76 and R79, on the reading 65.3 %, 23.7 °C of EM's example: 653 and 237 tenths. -/
theorem test_ports_of_a_reading :
    (outputs (sample .done)).humX10 = 653 ∧ (outputs (sample .done)).tempX10 = 237 ∧
    (outputs (sample .done)).lineOe = false ∧ (outputs (sample .done)).lineOut = true := by decide

/-- The line ports while the core drives the line (R31, R101). -/
theorem test_line_ports_of_HS_LOW :
    (outputs (sample .hsLow)).lineOe = true ∧ (outputs (sample .hsLow)).lineOut = false := by decide

/-- A state for each premise, and two states with the same registers and other inputs. -/
theorem witness_PortsShowTheRegisters :
    (sample .idle).err = none ∧
    (∀ k, (failureOf k (sample .hsAck1)).err = some k ∧ (outputs (failureOf k (sample .hsAck1))).failed = true) ∧
    (outputs (sample .done)).done = true ∧
    ((outputs (sample .idle)).done = false ∧ (outputs (sample .idle)).failed = false) ∧
    sameRegisters (sample .done) (fed (steady 1 true) (sample .done)) ∧
    sample .done ≠ fed (steady 1 true) (sample .done) :=
  ⟨rfl, fun _ => ⟨rfl, rfl⟩, rfl, ⟨rfl, rfl⟩, sameRegisters.refl _, by decide⟩

end Sys2Proof.Tests
end

section
/-! PROOFS. The environment: no operation changes the configuration, the coming inputs or the tick number. One
rule for each shared operation, then one line for each operation of the table. -/

namespace Sys2Proof.Machine

/-- The fields that no operation writes: the configuration (R33) and the environment's (log entry 3). -/
structure SameEnvironment (s t : State) : Prop where
  cfg : t.cfg = s.cfg
  inputs : t.inputs = s.inputs
  tick : t.tick = s.tick

/-- Where the answer `a` is a next state, that state has the environment of `s`. -/
def KeepsEnvironment (s : State) (a : Answer) : Prop := ∀ t, a = .next t → SameEnvironment s t

theorem SameEnvironment.refl (s : State) : SameEnvironment s s := ⟨rfl, rfl, rfl⟩

theorem KeepsEnvironment.of_next {s t : State} (h : SameEnvironment s t) : KeepsEnvironment s (.next t) :=
  fun _ hu => next_eq_next.1 hu ▸ h

theorem raiseFail_sameEnvironment (k : FailKind) (s : State) : SameEnvironment s (raiseFail k s) :=
  ⟨rfl, rfl, rfl⟩

theorem lineWrite_keepsEnvironment (v : Level) (s : State) : KeepsEnvironment s (lineWrite v s) := by
  intro t h
  obtain ⟨-, rfl⟩ := lineWrite_eq_next.1 h
  exact ⟨rfl, rfl, rfl⟩

theorem hold_keepsEnvironment {bound : Nat} {k : State → Answer} {s : State}
    (hk : KeepsEnvironment s (k s)) : KeepsEnvironment s (hold bound k s) := by
  intro t h
  obtain ⟨-, h⟩ | ⟨-, rfl⟩ := hold_eq_next.1 h
  · exact hk t h
  · exact ⟨rfl, rfl, rfl⟩

theorem boundedWait_keepsEnvironment {w : Level} {bound : Nat} {kind : FailKind} {k : State → Answer}
    {s : State} (hk : KeepsEnvironment s (k s)) : KeepsEnvironment s (boundedWait w bound kind k s) := by
  intro t h
  obtain ⟨-, ⟨-, h⟩ | ⟨-, -, rfl⟩ | ⟨-, -, rfl⟩⟩ := boundedWait_eq_next.1 h
  · exact hk t h
  · exact raiseFail_sameEnvironment _ _
  · exact ⟨rfl, rfl, rfl⟩

theorem shiftBit_keepsEnvironment (b : Bool) (s : State) : KeepsEnvironment s (shiftBit b s) := by
  intro t h
  obtain ⟨_, -, rfl⟩ := shiftBit_eq_next.1 h
  exact ⟨rfl, rfl, rfl⟩

/-- What a Bit Sample can do (R123, R127): one bit stored and the delay begun, or a failure. -/
theorem consumeSample_stores_or_fails {o : SampleOutcome} {s t : State} (h : consumeSample o s = .next t) :
    (∃ v : Byte, t = enterPhase .smGap
      { s with f := s.f.set (frameIndex s) v, bitcnt := s.bitcnt + 1 }) ∨ ∃ k, t = raiseFail k s := by
  obtain ⟨-, u, hu, rfl⟩ | ⟨-, u, hu, rfl⟩ | ⟨-, rfl⟩ | ⟨-, rfl⟩ := consumeSample_eq_next.1 h
  · obtain ⟨v, -, rfl⟩ := shiftBit_eq_next.1 hu
    exact .inl ⟨_, rfl⟩
  · obtain ⟨v, -, rfl⟩ := shiftBit_eq_next.1 hu
    exact .inl ⟨_, rfl⟩
  · exact .inr ⟨_, rfl⟩
  · exact .inr ⟨_, rfl⟩

theorem consumeSample_keepsEnvironment (o : SampleOutcome) (s : State) :
    KeepsEnvironment s (consumeSample o s) := by
  intro t h
  obtain ⟨_, rfl⟩ | ⟨_, rfl⟩ := consumeSample_stores_or_fails h
  · exact ⟨rfl, rfl, rfl⟩
  · exact raiseFail_sameEnvironment _ _

theorem validateFrame_keepsEnvironment (f : Frame) (s : State) : KeepsEnvironment s (validateFrame f s) := by
  intro t h
  obtain ⟨-, rfl⟩ | ⟨-, rfl⟩ := validateFrame_eq_next.1 h
  · exact ⟨rfl, rfl, rfl⟩
  · exact raiseFail_sameEnvironment _ _

theorem execDecode_keepsEnvironment (s : State) : KeepsEnvironment s (execDecode s) := by
  intro t h
  obtain ⟨-, rfl⟩ := execDecode_eq_next.1 h
  exact ⟨rfl, rfl, rfl⟩

theorem execHsLow_keepsEnvironment (s : State) : KeepsEnvironment s (execHsLow s) := by
  intro t h
  obtain ⟨-, -, rfl⟩ | ⟨-, rfl⟩ := execHsLow_eq_next.1 h <;> exact ⟨rfl, rfl, rfl⟩

theorem execReadLevel_keepsEnvironment (s : State) : KeepsEnvironment s (execReadLevel s) := by
  intro t h
  obtain ⟨-, h⟩ := lineRead_eq_next.1 h
  cases h
  exact ⟨rfl, rfl, rfl⟩

/-- The operation of a phase keeps the environment. -/
theorem execPhase_keepsEnvironment (p : Phase) (s : State) : KeepsEnvironment s (exec p.instr s) := by
  cases p with
  | idle | done | failed => exact .of_next (.refl s)
  | hsLow => exact execHsLow_keepsEnvironment s
  | hsRel | smGap =>
    apply hold_keepsEnvironment
    exact .of_next ⟨rfl, rfl, rfl⟩
  | hsAck1 | hsAck2 | smWaitLow | smWaitHigh =>
    apply boundedWait_keepsEnvironment
    exact .of_next ⟨rfl, rfl, rfl⟩
  | smMeasure => exact boundedWait_keepsEnvironment (consumeSample_keepsEnvironment _ s)
  | validate => exact validateFrame_keepsEnvironment _ s

/-- Every operation keeps the environment. -/
theorem exec_keepsEnvironment (s : State) : ∀ i : Instr, KeepsEnvironment s (exec i s)
  | .reset _ => .of_next ⟨rfl, rfl, rfl⟩
  | .decode => execDecode_keepsEnvironment s
  | .nop => execNop_eq_phase s ▸ execPhase_keepsEnvironment s.ph s
  | .idle => execPhase_keepsEnvironment .idle s
  | .hsLow => execPhase_keepsEnvironment .hsLow s
  | .hsRel => execPhase_keepsEnvironment .hsRel s
  | .hsAck1 => execPhase_keepsEnvironment .hsAck1 s
  | .hsAck2 => execPhase_keepsEnvironment .hsAck2 s
  | .smWaitLow => execPhase_keepsEnvironment .smWaitLow s
  | .smWaitHigh => execPhase_keepsEnvironment .smWaitHigh s
  | .smMeasure => execPhase_keepsEnvironment .smMeasure s
  | .smGap => execPhase_keepsEnvironment .smGap s
  | .validate => execPhase_keepsEnvironment .validate s
  | .done => execPhase_keepsEnvironment .done s
  | .failed => execPhase_keepsEnvironment .failed s
  | .short _ | .zero _ | .ambiguous _ | .one _ | .overlong _ => consumeSample_keepsEnvironment _ s
  | .frame _ _ _ _ => validateFrame_keepsEnvironment _ s
  | .shiftIn b => shiftBit_keepsEnvironment b s
  | .classify | .checksum | .convHum | .convTemp | .setdirIn | .setdirOut => .of_next ⟨rfl, rfl, rfl⟩
  | .writeLow => lineWrite_keepsEnvironment false s
  | .writeHigh => lineWrite_keepsEnvironment true s
  | .readLevel => execReadLevel_keepsEnvironment s
  | .fail _ | .failNoResponse | .failProtocolViolation | .failTimeout | .failMeasurement
  | .failChecksumError => .of_next (raiseFail_sameEnvironment _ s)

/-- Settles O47, from the rule of every operation. -/
theorem operationsLeaveTheEnvironment : Obligations.OperationsLeaveTheEnvironment := fun i s t h =>
  have henv := exec_keepsEnvironment s i t h
  ⟨henv.inputs, henv.tick⟩

end Sys2Proof.Machine
end

section
/-! PROOFS. The frames of the phases and of the pulse symbols: which registers each leaves as they were. -/

namespace Sys2Proof.Machine

/-! ### The pulse symbols -/

theorem exec_pulse {i : Instr} {d : Nat} (s : State)
    (hi : i = .short d ∨ i = .zero d ∨ i = .ambiguous d ∨ i = .one d ∨ i = .overlong d) :
    exec i s = consumeSample (classify s.cfg d) s := by
  rcases hi with rfl | rfl | rfl | rfl | rfl <;> rfl

/-- Settles O45: a pulse stores one bit and begins the delay, or fails. -/
theorem pulsesChangeOnlyTheirRegisters : Obligations.PulsesChangeOnlyTheirRegisters := by
  intro i d s t hi h
  rw [exec_pulse s hi] at h
  obtain ⟨v, rfl⟩ | ⟨k, rfl⟩ := consumeSample_stores_or_fails h
  · exact ⟨rfl, rfl, rfl, rfl, rfl, rfl, rfl, rfl,
      fun _ => ⟨rfl, fun a ha => Frame.get?_set_other _ _ ha⟩, fun hp => absurd rfl hp⟩
  · exact ⟨rfl, rfl, rfl, rfl, rfl, rfl, rfl, rfl, fun hp => by simp at hp, fun _ => ⟨rfl, rfl⟩⟩

/-! ### The phases -/

/-- What the tick of a phase leaves as it was, of the registers and the field `value`. -/
structure PhaseFrame (s t : State) : Prop where
  value : t.value = s.value
  reading : s.ph ≠ .validate → t.hum = s.hum ∧ t.temp = s.temp
  err : t.ph ≠ .failed → t.err = s.err
  lineOe : s.ph ≠ .hsRel → t.lineOe = s.lineOe
  lineOut : s.ph ≠ .hsLow → t.lineOut = s.lineOut
  bits : t.ph ≠ .failed → s.ph ≠ .validate → s.ph ≠ .smMeasure → t.bitcnt = s.bitcnt ∧ t.f = s.f
  bytes : s.ph = .smMeasure → t.ph ≠ .failed →
    ∀ a, a ≠ frameIndex s ∨ t.ph = .smMeasure → t.f.get? a = s.f.get? a
  cleared : t.ph = .failed → s.ph ≠ .failed → t.err ≠ none ∧ t.tmr = 0 ∧ t.bitcnt = 0 ∧ t.f = Frame.zero

theorem PhaseFrame.refl (s : State) : PhaseFrame s s := by
  constructor <;> simp_all

theorem PhaseFrame.of_countTick (s : State) : PhaseFrame s (countTick s) := by
  constructor <;> simp_all

theorem PhaseFrame.of_raiseFail (k : FailKind) (s : State) : PhaseFrame s (raiseFail k s) := by
  constructor <;> simp

theorem PhaseFrame.of_enterPhase {p : Phase} (hp : p ≠ .failed) (s : State) : PhaseFrame s (enterPhase p s) := by
  constructor <;> simp [hp]

theorem PhaseFrame.of_hold {bound : Nat} {k : State → Answer} {s t : State}
    (hk : k s = .next t → PhaseFrame s t) (h : hold bound k s = .next t) : PhaseFrame s t := by
  obtain ⟨-, h⟩ | ⟨-, rfl⟩ := hold_eq_next.1 h
  · exact hk h
  · exact .of_countTick s

theorem PhaseFrame.of_boundedWait {w : Level} {bound : Nat} {kind : FailKind} {k : State → Answer} {s t : State}
    (hk : k s = .next t → PhaseFrame s t) (h : boundedWait w bound kind k s = .next t) : PhaseFrame s t := by
  obtain ⟨-, ⟨-, h⟩ | ⟨-, -, rfl⟩ | ⟨-, -, rfl⟩⟩ := boundedWait_eq_next.1 h
  · exact hk h
  · exact .of_raiseFail kind s
  · exact .of_countTick s

/-- A satisfied wait, or a hold's last tick, that only changes the phase. -/
theorem PhaseFrame.of_next_enterPhase {p : Phase} (hp : p ≠ .failed) {s t : State}
    (h : Host.Outcome.next (enterPhase p s) = (.next t : Answer)) : PhaseFrame s t :=
  next_eq_next.1 h ▸ .of_enterPhase hp s

theorem PhaseFrame.of_consumeSample {o : SampleOutcome} {s t : State} (hs : s.ph = .smMeasure)
    (h : consumeSample o s = .next t) : PhaseFrame s t := by
  obtain ⟨v, rfl⟩ | ⟨k, rfl⟩ := consumeSample_stores_or_fails h
  · constructor <;> simp +contextual [hs, Frame.get?_set_other]
  · exact .of_raiseFail k s

theorem PhaseFrame.of_validateFrame {f : Frame} {s t : State} (hs : s.ph = .validate)
    (h : validateFrame f s = .next t) : PhaseFrame s t := by
  obtain ⟨-, rfl⟩ | ⟨-, rfl⟩ := validateFrame_eq_next.1 h
  · constructor <;> simp [hs]
  · exact .of_raiseFail .checksumError s

/-- `NOP` runs the rule of the phase, and each phase keeps the frame. -/
theorem execNop_phaseFrame {s t : State} (h : execNop s = .next t) : PhaseFrame s t := by
  cases hp : s.ph <;> simp only [execNop, hp] at h
  case idle => cases h; exact .refl s
  case done => cases h; exact .refl s
  case failed => cases h; exact .refl s
  case hsLow =>
    obtain ⟨-, -, rfl⟩ | ⟨-, rfl⟩ := execHsLow_eq_next.1 h
    · constructor <;> simp [hp]
    · exact .of_countTick s
  case hsRel =>
    obtain ⟨-, rfl⟩ | ⟨-, rfl⟩ := execHsRel_eq_next.1 h
    · constructor <;> simp [hp]
    · exact .of_countTick s
  case hsAck1 => exact .of_boundedWait (.of_next_enterPhase (by decide)) h
  case hsAck2 => exact .of_boundedWait (.of_next_enterPhase (by decide)) h
  case smWaitLow => exact .of_boundedWait (.of_next_enterPhase (by decide)) h
  case smWaitHigh => exact .of_boundedWait (.of_next_enterPhase (by decide)) h
  case smMeasure => exact .of_boundedWait (.of_consumeSample hp) h
  case smGap => exact .of_hold (.of_next_enterPhase (by split <;> decide)) h
  case validate => exact .of_validateFrame hp h

/-- Settles O44: the phase's frame, and the environment that every operation keeps. -/
theorem phasesChangeOnlyTheirRegisters : Obligations.PhasesChangeOnlyTheirRegisters := by
  intro i s t hi h
  obtain ⟨hcfg, hinputs, htick⟩ := exec_keepsEnvironment s i t h
  have hnop : exec .nop s = .next t := by
    rcases hi with rfl | rfl
    · exact h
    · rw [execNop_eq_phase, h]
  obtain ⟨hvalue, hreading, herr, hoe, hout, hbits, hbytes, hcleared⟩ := execNop_phaseFrame hnop
  exact ⟨hcfg, hinputs, htick, hvalue, hreading, herr, hoe, hout, hbits, hbytes, hcleared⟩

end Sys2Proof.Machine
end

section
/-! PROOFS. Every attempt ends (R17): what keeps a core that is in an attempt running, a bound on the ticks
it has left, and that every tick lowers that bound. -/

namespace Sys2Proof.Machine

/-! ### Where the shared operations have a next state -/

theorem hold_answers {bound : Nat} {k : State → Answer} {s : State} (h : ∃ t, k s = .next t) :
    ∃ t, hold bound k s = .next t := by
  by_cases he : elapsed s = bound
  · rwa [hold_last he]
  · exact ⟨_, hold_count he⟩

theorem boundedWait_answers {w : Level} {bound : Nat} {kind : FailKind} {k : State → Answer} {s : State}
    (ho : s.lineOe = false) (h : ∃ t, k s = .next t) : ∃ t, boundedWait w bound kind k s = .next t := by
  by_cases hl : lineIn s = w
  · rwa [boundedWait_satisfied ho hl]
  · by_cases he : elapsed s = bound
    · exact ⟨_, boundedWait_expired ho hl he⟩
    · exact ⟨_, boundedWait_count ho hl he⟩

theorem consumeSample_answers (o : SampleOutcome) {s : State} (h : s.bitcnt.toNat < 40) :
    ∃ t, consumeSample o s = .next t := by
  obtain ⟨v, hv⟩ := Frame.get?_of_lt s.f (frameIndex_lt h)
  cases o <;> simp [consumeSample, shiftBit_of_room _ hv]

theorem validateFrame_answers (f : Frame) (s : State) : ∃ t, validateFrame f s = .next t := by
  unfold validateFrame
  split <;> exact ⟨_, rfl⟩

/-- A tick without `rst` and `start` makes no command (R78). -/
theorem fetch_of_quiet {s : State} (hr : (currentInput s).rst = false)
    (hs : (currentInput s).start = false) : fetch s = .nop := by
  simp [fetch, command, hr, hs]

/-! ### A core in an attempt -/

/-- The most bits a phase can hold (R40 (d)). -/
def mostBits : Phase → Nat
  | .idle => 0
  | .hsLow => 0
  | .hsRel => 0
  | .hsAck1 => 0
  | .hsAck2 => 0
  | .smWaitLow => 39
  | .smWaitHigh => 39
  | .smMeasure => 39
  | .smGap => 40
  | .validate => 40
  | .done => 0
  | .failed => 0

/-- A conforming core in an attempt: the clauses (b), (d) and (h) of R40 that its progress rests on. -/
structure Underway (s : State) : Prop where
  conforming : s.cfg.Conforming
  isBusy : busy s = true
  driven : s.lineOe = true ↔ s.ph = .hsLow ∨ s.ph = .hsRel
  bits : s.bitcnt.toNat ≤ mostBits s.ph
  timer : s.tmr.toNat < tmrBound s.cfg s.ph

/-- The longest that one bit can take: its three waits and its delay (R17). -/
def bitTicks (c : Params) : Nat := 3 * c.tTimeout + c.tGap

/-- The most ticks an attempt with `b` bits in can take once it has left phase `p`. -/
def ticksAfter (c : Params) (b : Nat) : Phase → Nat
  | .hsLow => c.tRelease + 2 * c.tAck + c.nBits * bitTicks c + 1
  | .hsRel => 2 * c.tAck + c.nBits * bitTicks c + 1
  | .hsAck1 => c.tAck + c.nBits * bitTicks c + 1
  | .hsAck2 => c.nBits * bitTicks c + 1
  | .smWaitLow => 2 * c.tTimeout + c.tGap + (c.nBits - (b + 1)) * bitTicks c + 1
  | .smWaitHigh => c.tTimeout + c.tGap + (c.nBits - (b + 1)) * bitTicks c + 1
  | .smMeasure => c.tGap + (c.nBits - (b + 1)) * bitTicks c + 1
  | .smGap => (c.nBits - b) * bitTicks c + 1
  | .validate => 0
  | .idle => 0
  | .done => 0
  | .failed => 0

/-- The most ticks the attempt can still take: those of its phase, then those of the phases after it. -/
def ticksLeft (s : State) : Nat :=
  tmrBound s.cfg s.ph - s.tmr.toNat + ticksAfter s.cfg s.bitcnt.toNat s.ph

theorem tmrBound_pos {c : Params} (h : c.Conforming) (p : Phase) : 0 < tmrBound c p := by
  have := conforming_values h
  cases p <;> simp only [tmrBound] <;> omega

/-- The state that an accepted `DECODE` leaves, with the whole of R17's bound before it. -/
theorem underway_of_decode {s : State} (h : s.cfg.Conforming) :
    Underway (endTick (beginAttempt { lineDir .output s with lineOut := false })) ∧
      ticksLeft (endTick (beginAttempt { lineDir .output s with lineOut := false })) = lastTick s.cfg := by
  refine ⟨⟨h, rfl, by simp, Nat.le_refl _, tmrBound_pos h .hsLow⟩, ?_⟩
  change s.cfg.tWake - 0 + ticksAfter s.cfg 0 .hsLow = lastTick s.cfg
  simp only [ticksAfter, lastTick, bitTicks]
  omega

/-- The end of a tick moves the environment on and leaves the attempt where it is. -/
theorem Underway.of_endTick {s : State} (h : Underway s) : Underway (endTick s) :=
  ⟨h.conforming, h.isBusy, h.driven, h.bits, h.timer⟩

/-- A core in an attempt reads the line in `Input` mode only (R40 (c)). -/
theorem Underway.input {s : State} (h : Underway s) (hp : readsLine s.ph = true) : s.lineOe = false := by
  rw [← Bool.not_eq_true, h.driven]
  rintro (hq | hq) <;> simp [hq, readsLine] at hp

/-- In an attempt the rule of the phase always has a next state. -/
theorem Underway.execNop_answers {s : State} (h : Underway s) : ∃ t, execNop s = .next t := by
  have hin := h.input
  have hout := h.driven
  have hbits := h.bits
  cases hp : s.ph <;> simp only [hp, readsLine, mostBits, forall_const] at hin hout hbits <;>
    simp only [execNop, hp]
  case idle => exact ⟨_, rfl⟩
  case done => exact ⟨_, rfl⟩
  case failed => exact ⟨_, rfl⟩
  case hsLow => exact hold_answers ⟨_, by rw [lineWrite_of_output _ (by simpa using hout)]; rfl⟩
  case hsRel => exact hold_answers ⟨_, rfl⟩
  case hsAck1 => exact boundedWait_answers hin ⟨_, rfl⟩
  case hsAck2 => exact boundedWait_answers hin ⟨_, rfl⟩
  case smWaitLow => exact boundedWait_answers hin ⟨_, rfl⟩
  case smWaitHigh => exact boundedWait_answers hin ⟨_, rfl⟩
  case smMeasure => exact boundedWait_answers hin (consumeSample_answers _ (by omega))
  case smGap => exact hold_answers ⟨_, rfl⟩
  case validate => exact validateFrame_answers _ _

/-! ### Every tick lowers the bound -/

/-- One more tick in a phase. -/
theorem Underway.countTick_lowers {s : State} (h : Underway s) (he : elapsed s ≠ tmrBound s.cfg s.ph) :
    Underway (countTick s) ∧ ticksLeft (countTick s) < ticksLeft s := by
  have htimer := h.timer
  have hmax := tmrBound_le h.conforming s.ph
  have hcount : (countTick s).tmr.toNat = s.tmr.toNat + 1 := by
    rw [countTick_tmr]
    bv_omega
  have hlt : s.tmr.toNat + 1 < tmrBound s.cfg s.ph := by unfold elapsed at he; omega
  refine ⟨⟨h.conforming, h.isBusy, h.driven, h.bits, hcount ▸ hlt⟩, ?_⟩
  simp only [ticksLeft, hcount, countTick_cfg, countTick_ph, countTick_bitcnt]
  omega

/-- A change to a later phase `u.ph`, with the ticks that `ticksAfter` sets aside for it. -/
theorem Underway.enter_lowers {s u : State} (h : Underway s) (hc : u.cfg = s.cfg) (ht : u.tmr = 0)
    (hb : busy u = true) (hd : u.lineOe = true ↔ u.ph = .hsLow ∨ u.ph = .hsRel)
    (hbits : u.bitcnt.toNat ≤ mostBits u.ph)
    (hle : tmrBound s.cfg u.ph + ticksAfter s.cfg u.bitcnt.toNat u.ph ≤
      ticksAfter s.cfg s.bitcnt.toNat s.ph) :
    Underway u ∧ ticksLeft u < ticksLeft s := by
  have hzero : u.tmr.toNat = 0 := by rw [ht]; rfl
  refine ⟨⟨hc ▸ h.conforming, hb, hd, hbits, ?_⟩, ?_⟩
  · rw [hzero, hc]; exact tmrBound_pos h.conforming _
  · have htimer := h.timer
    simp only [ticksLeft, hzero, hc]
    omega

/-- A tick of a core in an attempt, with no command, ends the attempt or brings its end nearer. -/
theorem Underway.move_lowers {s u : State} (h : Underway s) (hr : (currentInput s).rst = false)
    (hs : (currentInput s).start = false) (hm : Move s u) :
    (u.ph = .done ∨ u.ph = .failed) ∨ Underway u ∧ ticksLeft u < ticksLeft s := by
  have hc := conforming_values h.conforming
  have hd := h.driven
  have hbits := h.bits
  have hbusy := h.isBusy
  cases hm with
  | reset hr' => simp [hr] at hr'
  | start _ hs' _ => simp [hs] at hs'
  | stay _ _ hb => simp [hb] at hbusy
  | holdCount _ _ hp =>
    refine .inr (h.countTick_lowers ?_)
    rcases hp with ⟨hp, he⟩ | ⟨hp, he⟩ | ⟨hp, he⟩ <;> simpa [hp, tmrBound] using he
  | waitCount _ _ _ hp =>
    refine .inr (h.countTick_lowers ?_)
    rcases hp with ⟨hp, -, he⟩ | ⟨hp, -, he⟩ | ⟨hp, -, he⟩ | ⟨hp, -, he⟩ | ⟨hp, -, he⟩ <;>
      simpa [hp, tmrBound] using he
  | wake _ _ hp _ ho =>
    refine .inr (h.enter_lowers rfl rfl rfl (by simp [ho]) (by simpa [hp, mostBits] using hbits) ?_)
    simp only [hp, tmrBound, ticksAfter, enterPhase_ph]
    omega
  | release _ _ hp =>
    refine .inr (h.enter_lowers rfl rfl rfl (by simp) (by simpa [hp, mostBits] using hbits) ?_)
    simp only [hp, tmrBound, ticksAfter, enterPhase_ph]
    omega
  | satisfied p _ _ ho hp =>
    rcases hp with ⟨hp, -, rfl⟩ | ⟨hp, -, rfl⟩ | ⟨hp, -, rfl⟩ | ⟨hp, -, rfl⟩ <;>
      rw [hp] at hbits <;>
      refine .inr (h.enter_lowers rfl rfl rfl (by simp [ho]) ?_ ?_) <;>
      simp only [hp, hc, mostBits, tmrBound, ticksAfter, bitTicks, enterPhase_ph, enterPhase_bitcnt] at hbits ⊢ <;>
      omega
  | expired k => exact .inl (.inr rfl)
  | badPulse k => exact .inl (.inr rfl)
  | validFrame => exact .inl (.inl rfl)
  | badFrame => exact .inl (.inr rfl)
  | sample b v _ _ ho hp =>
    have hnext : (s.bitcnt + 1).toNat = s.bitcnt.toNat + 1 := by
      simp only [hp, mostBits] at hbits
      bv_omega
    refine .inr (h.enter_lowers rfl rfl rfl (by simp [ho]) ?_ ?_)
    · simp only [hp, mostBits, enterPhase_ph, enterPhase_bitcnt, hnext] at hbits ⊢
      omega
    · simp only [hp, tmrBound, ticksAfter, enterPhase_ph, enterPhase_bitcnt, hnext]
      omega
  | gapEnd _ _ hp =>
    simp only [hp, mostBits] at hd hbits
    split
    · refine .inr (h.enter_lowers rfl rfl rfl (by simpa using hd) hbits ?_)
      simp [hp, tmrBound, ticksAfter]
    · next hn =>
      refine .inr (h.enter_lowers rfl rfl rfl (by simpa using hd) ?_ ?_) <;>
        simp only [hp, hc, mostBits, tmrBound, ticksAfter, bitTicks, enterPhase_ph, enterPhase_bitcnt] at hn ⊢ <;>
        omega

/-- One tick of an attempt, with no command. -/
theorem Underway.step_lowers {s : State} (h : Underway s) (hr : (currentInput s).rst = false)
    (hs : (currentInput s).start = false) :
    ∃ t, step s = .next t ∧
      ((t.ph = .done ∨ t.ph = .failed) ∨ Underway t ∧ ticksLeft t < ticksLeft s) := by
  obtain ⟨u, hu⟩ := h.execNop_answers
  refine ⟨endTick u, step_eq_next.2 ⟨u, by rw [fetch_of_quiet hr hs]; exact hu, rfl⟩, ?_⟩
  exact (h.move_lowers hr hs (execNop_move hr hs hu)).imp_right fun hl => ⟨hl.1.of_endTick, hl.2⟩

/-- An attempt left without a command ends within the ticks it has left. -/
theorem Underway.ends {s : State} (h : Underway s) (hq : QuietFor (ticksLeft s) s) :
    ∃ n t, 1 ≤ n ∧ n ≤ ticksLeft s ∧ RunsTo n s t ∧ (t.ph = .done ∨ t.ph = .failed) := by
  induction hn : ticksLeft s using Nat.strong_induction_on generalizing s with
  | _ m ih =>
    subst hn
    have hpos : 0 < ticksLeft s := by have := h.timer; unfold ticksLeft; omega
    obtain ⟨hr, hs⟩ := hq 0 hpos
    obtain ⟨t, ht, hend | ⟨hunder, hlt⟩⟩ := h.step_lowers hr hs
    · exact ⟨1, t, Nat.le_refl _, hpos, runsTo_one.2 ht, hend⟩
    · have hq' : QuietFor (1 + ticksLeft t) s := hq.mono (by omega)
      obtain ⟨n, v, -, hle, hrun, hend⟩ := ih _ hlt hunder (hq'.runsTo (runsTo_one.2 ht)) rfl
      exact ⟨n + 1, v, by omega, by omega, runsTo_succ.2 ⟨t, ht, hrun⟩, hend⟩

/-- The tick of an accepted `DECODE` (R183). -/
theorem step_of_accepted {s : State} (hb : busy s = false) (hr : (currentInput s).rst = false)
    (hs : (currentInput s).start = true) :
    step s = .next (endTick (beginAttempt { lineDir .output s with lineOut := false })) :=
  step_eq_next.2 ⟨_, by
    rw [show fetch s = .decode by simp [fetch, command, hr, hs]]
    exact execDecode_eq_next.2 ⟨hb, rfl⟩, rfl⟩

/-- Settles O54: an accepted `DECODE` leaves `lastTick` ticks, and every tick after it lowers that number. -/
theorem everyAttemptEnds : Obligations.EveryAttemptEnds := by
  refine ⟨rfl, fun s hconf hb hr hs hquiet => ?_⟩
  obtain ⟨hunder, hleft⟩ := underway_of_decode hconf
  have hstep := step_of_accepted hb hr hs
  have hq : QuietFor (lastTick s.cfg) (endTick (beginAttempt { lineDir .output s with lineOut := false })) :=
    fun k hk => by rw [upcoming_step hstep]; exact hquiet (k + 1) (by omega) hk
  obtain ⟨n, t, h1, hn, hrun, hend⟩ := hunder.ends (hleft ▸ hq)
  exact ⟨n, t, h1, hleft ▸ hn, runsTo_succ.2 ⟨_, hstep, hrun⟩, hend⟩

end Sys2Proof.Machine
end

section
/-! PROOFS. The invariant of R40: what a state must show to meet it, that each move of a tick keeps it, and
that the reset state meets it. -/

namespace Sys2Proof.Machine

/-! ### The bits that a phase holds -/

/-- The fewest bits a phase can hold (R40 (d)); `mostBits` is the other end. -/
def leastBits : Phase → Nat
  | .smGap => 1
  | .validate => 40
  | .idle => 0
  | .hsLow => 0
  | .hsRel => 0
  | .hsAck1 => 0
  | .hsAck2 => 0
  | .smWaitLow => 0
  | .smWaitHigh => 0
  | .smMeasure => 0
  | .done => 0
  | .failed => 0

/-- The clauses (d) and (g) of R40: as many bits as the phase allows, and a frame as full as they say. -/
structure HoldsItsBits (s : State) : Prop where
  least : leastBits s.ph ≤ s.bitcnt.toNat
  most : s.bitcnt.toNat ≤ mostBits s.ph
  filled : frameFilled s
  emptied : holdsBits s.ph = false → s.f = Frame.zero

theorem mostBits_le (p : Phase) : mostBits p ≤ 40 := by cases p <;> decide

theorem mostBits_of_not_holdsBits {p : Phase} (h : holdsBits p = false) : mostBits p = 0 := by
  cases p with
  | smWaitLow | smWaitHigh | smMeasure | smGap | validate => cases h
  | _ => rfl

theorem HoldsItsBits.of_empty {s : State} (hp : leastBits s.ph = 0) (hb : s.bitcnt = 0)
    (hf : s.f = Frame.zero) : HoldsItsBits s :=
  ⟨by simp [hp], by simp [hb], frameFilled_of_zero hf, fun _ => hf⟩

theorem Invariant.holdsItsBits {s : State} (h : Invariant s) : HoldsItsBits s := by
  refine ⟨?_, ?_, h.filled, h.emptied⟩
  · cases hp : s.ph with
    | smGap => exact h.bitsGap hp
    | validate => exact (h.bitsAll hp).ge
    | _ => exact Nat.zero_le _
  · cases hp : s.ph with
    | smGap | validate => exact h.bitsMax
    | smWaitLow | smWaitHigh | smMeasure => exact h.bitsRoom (by simp [hp])
    | _ => simp [h.bitsNone (by rw [hp]; rfl)]

/-- The invariant from its independent parts: (c) follows from (b), and (d) with (g) is `HoldsItsBits`. -/
theorem Invariant.of_parts {s : State} (hconf : s.cfg.Conforming)
    (hdriven : s.lineOe = true ↔ s.ph = .hsLow ∨ s.ph = .hsRel) (hlow : s.lineOut = false ↔ s.ph = .hsLow)
    (hbits : HoldsItsBits s) (herr : s.err ≠ none ↔ s.ph = .failed)
    (hread : s.ph ≠ .done → s.hum = 0 ∧ s.temp = 0) (htimer : s.tmr.toNat < tmrBound s.cfg s.ph) :
    Invariant s where
  conforming := hconf
  driven := hdriven
  drivenLow := hlow
  readable hp := by
    rw [← Bool.not_eq_true, hdriven]
    rintro (hq | hq) <;> simp [hq, readsLine] at hp
  bitsMax := hbits.most.trans (mostBits_le _)
  bitsNone hp := BitVec.eq_of_toNat_eq (Nat.le_zero.1 (mostBits_of_not_holdsBits hp ▸ hbits.most))
  bitsAll hp := by
    have hleast := hbits.least
    have hmost := hbits.most
    rw [hp] at hleast hmost
    exact le_antisymm hmost hleast
  bitsGap hp := by
    have hleast := hbits.least
    rwa [hp] at hleast
  bitsRoom hp := by
    have hmost := hbits.most
    rcases hp with hp | hp | hp <;> rwa [hp] at hmost
  errKind := herr
  noReading := hread
  filled := hbits.filled
  emptied := hbits.emptied
  timer := htimer

/-! ### The shift-in -/

/-- One more bit in the frame, at the byte and the place that `BITCNT` says (R40 (g), R151). -/
theorem frameFilled_of_shift {s t : State} {v : Byte} (b : Bool) (h : frameFilled s)
    (hroom : s.bitcnt.toNat < 40) (hv : s.f.get? (frameIndex s) = some v)
    (hf : t.f = s.f.set (frameIndex s) (shiftByte v b)) (hb : t.bitcnt.toNat = s.bitcnt.toNat + 1) :
    frameFilled t := by
  obtain ⟨hlater, htop⟩ := h
  have hindex : frameIndex t = (s.bitcnt.toNat + 1) / 8 := by rw [frameIndex, hb]
  have hindexs : frameIndex s = s.bitcnt.toNat / 8 := rfl
  have hzero : ∀ i w, frameIndex s < i → t.f.get? i = some w → w = 0 := fun i w hi hw =>
    hlater i w (by rwa [hf, Frame.get?_set_other _ _ (by omega)] at hw) hi
  refine ⟨fun i w hw hi => hzero i w (by omega) hw, fun _ w hw => ?_⟩
  by_cases hsame : frameIndex t = frameIndex s
  · have hwv : w = shiftByte v b := by
      rw [hsame, hf, Frame.get?_set_same _ _ (frameIndex_lt hroom)] at hw
      exact (Option.some.inj hw).symm
    have hmod : t.bitcnt.toNat % 8 = s.bitcnt.toNat % 8 + 1 := by omega
    have hlt := htop hroom v hv
    have hbit : bitNat b ≤ 1 := by cases b <;> decide
    rw [hwv, shiftByte_toNat, hmod, Nat.pow_succ]
    omega
  · rw [hzero _ w (by omega) hw]
    exact Nat.two_pow_pos _

/-- The state after a bit is stored in `SM_MEASURE` holds the bits of `SM_GAP`. -/
theorem Invariant.holdsItsBits_of_sample {s : State} {v : Byte} (h : Invariant s) (b : Bool)
    (hp : s.ph = .smMeasure) (hv : s.f.get? (frameIndex s) = some v) :
    HoldsItsBits (enterPhase .smGap
      { s with f := s.f.set (frameIndex s) (shiftByte v b), bitcnt := s.bitcnt + 1 }) := by
  have hroom : s.bitcnt.toNat ≤ 39 := h.bitsRoom (by simp [hp])
  have hnext : (s.bitcnt + 1).toNat = s.bitcnt.toNat + 1 := by bv_omega
  refine ⟨?_, ?_, frameFilled_of_shift b h.filled (by omega) hv rfl hnext, fun hq => by cases hq⟩ <;>
    simp only [enterPhase_ph, enterPhase_bitcnt, hnext, leastBits, mostBits] <;> omega

/-! ### The moves of a tick -/

/-- The phases in which the core drives no line and shows no result of an attempt. -/
abbrev Undriven (p : Phase) : Prop := p ≠ .hsLow ∧ p ≠ .hsRel ∧ p ≠ .done ∧ p ≠ .failed

/-- In such a phase the line is released at high (b), there is no failure kind (e) and no reading (f). -/
theorem Invariant.of_undriven {s : State} (h : Invariant s) (hp : Undriven s.ph) :
    s.lineOe = false ∧ s.lineOut = true ∧ s.err = none ∧ s.hum = 0 ∧ s.temp = 0 := by
  obtain ⟨hlow, hrel, hdone, hfailed⟩ := hp
  refine ⟨?_, ?_, ?_, h.noReading hdone⟩
  · simpa [hlow, hrel] using h.driven
  · simpa [hlow] using h.drivenLow
  · simpa [hfailed] using h.errKind

theorem Invariant.of_resetRegisters {s : State} (h : s.cfg.Conforming) : Invariant (resetRegisters s) :=
  .of_parts h (by simp) (by simp) (.of_empty rfl rfl rfl) (by simp) (by simp) (tmrBound_pos h .idle)

theorem Invariant.of_start {s : State} (h : s.cfg.Conforming) :
    Invariant (beginAttempt { lineDir .output s with lineOut := false }) :=
  .of_parts h (by simp) (by simp) (.of_empty rfl rfl rfl) (by simp) (by simp) (tmrBound_pos h .hsLow)

theorem Invariant.of_countTick {s : State} (h : Invariant s) (he : elapsed s ≠ tmrBound s.cfg s.ph) :
    Invariant (countTick s) := by
  have htimer := h.timer
  have hmax := tmrBound_le h.conforming s.ph
  have hcount : (countTick s).tmr.toNat = s.tmr.toNat + 1 := by
    rw [countTick_tmr]
    bv_omega
  have hlt : s.tmr.toNat + 1 < tmrBound s.cfg s.ph := by unfold elapsed at he; omega
  exact { h with timer := hcount ▸ hlt }

theorem Invariant.of_raiseFail {s : State} (h : Invariant s) (k : FailKind) (hp : Undriven s.ph) :
    Invariant (raiseFail k s) := by
  obtain ⟨hoe, hout, -, hread⟩ := h.of_undriven hp
  exact .of_parts h.conforming (by simp [hoe]) (by simp [hout]) (.of_empty rfl rfl rfl) (by simp)
    (fun _ => hread) (tmrBound_pos h.conforming .failed)

theorem Invariant.of_wake {s : State} (h : Invariant s) (hp : s.ph = .hsLow) :
    Invariant (enterPhase .hsRel { s with lineOut := true }) :=
  .of_parts h.conforming (by simpa [hp] using h.driven) (by simp)
    (.of_empty rfl (h.bitsNone (by rw [hp]; rfl)) (h.emptied (by rw [hp]; rfl)))
    (by simpa [hp] using h.errKind) (fun _ => h.noReading (by simp [hp])) (tmrBound_pos h.conforming .hsRel)

theorem Invariant.of_release {s : State} (h : Invariant s) (hp : s.ph = .hsRel) :
    Invariant (enterPhase .hsAck1 (lineDir .input s)) :=
  .of_parts h.conforming (by simp) (by simpa [hp] using h.drivenLow)
    (.of_empty rfl (h.bitsNone (by rw [hp]; rfl)) (h.emptied (by rw [hp]; rfl)))
    (by simpa [hp] using h.errKind) (fun _ => h.noReading (by simp [hp])) (tmrBound_pos h.conforming .hsAck1)

/-- A change between two phases with the line released: only the bits the new phase holds are at stake. -/
theorem Invariant.of_undriven_change {s : State} {p : Phase} {n : BitCount} {g : Frame} (h : Invariant s)
    (hs : Undriven s.ph) (hp : Undriven p)
    (hbits : HoldsItsBits { s with ph := p, tmr := 0, bitcnt := n, f := g }) :
    Invariant { s with ph := p, tmr := 0, bitcnt := n, f := g } := by
  obtain ⟨hoe, hout, herr, hread⟩ := h.of_undriven hs
  obtain ⟨hlow, hrel, hdone, hfailed⟩ := hp
  exact .of_parts h.conforming (by simp [hoe, hlow, hrel]) (by simp [hout, hlow]) hbits
    (by simp [herr, hfailed]) (fun _ => hread) (tmrBound_pos h.conforming p)

theorem Invariant.of_validFrame {s : State} (h : Invariant s) (hp : s.ph = .validate) (hum temp : Tenths) :
    Invariant (clearTransient { s with hum := hum, temp := temp, ph := .done }) := by
  obtain ⟨hoe, hout, herr, -⟩ := h.of_undriven (by rw [hp]; decide)
  exact .of_parts h.conforming (by simp [hoe]) (by simp [hout]) (.of_empty rfl rfl rfl) (by simp [herr])
    (fun hq => absurd rfl hq) (tmrBound_pos h.conforming .done)

/-- A satisfied wait leaves the bits as they were, and the next phase has room for as many. -/
theorem Invariant.of_satisfied {s : State} {p : Phase} (h : Invariant s) (hs : Undriven s.ph)
    (hp : Undriven p) (hleast : leastBits p = 0) (hmost : mostBits s.ph ≤ mostBits p)
    (hempty : holdsBits p = false → holdsBits s.ph = false) : Invariant (enterPhase p s) :=
  have hbits := h.holdsItsBits
  h.of_undriven_change hs hp
    ⟨by simp [hleast], hbits.most.trans hmost, hbits.filled, fun hq => hbits.emptied (hempty hq)⟩

/-- After the inter-bit delay: the fortieth bit leads to `VALIDATE`, any other to the next (R128). -/
theorem Invariant.of_gapEnd {s : State} (h : Invariant s) (hp : s.ph = .smGap) :
    Invariant (enterPhase (if s.bitcnt.toNat = s.cfg.nBits then .validate else .smWaitLow) s) := by
  obtain ⟨-, -, -, -, -, -, -, hn, -, -⟩ := conforming_values h.conforming
  have hmax := h.bitsMax
  rw [hn]
  split
  · next he =>
    exact h.of_undriven_change (by rw [hp]; decide) (by decide)
      ⟨he.ge, hmax, h.filled, fun hq => by cases hq⟩
  · next he =>
    exact h.of_undriven_change (by rw [hp]; decide) (by decide)
      ⟨Nat.zero_le _, Nat.le_of_lt_succ (lt_of_le_of_ne hmax he), h.filled, fun hq => by cases hq⟩

/-- Every move that a tick can make keeps the invariant. -/
theorem Invariant.of_move {s u : State} (h : Invariant s) (hm : Move s u) : Invariant u := by
  cases hm with
  | reset => exact .of_resetRegisters h.conforming
  | start => exact .of_start h.conforming
  | stay => exact h
  | holdCount _ _ hp =>
    apply h.of_countTick
    rcases hp with ⟨hp, he⟩ | ⟨hp, he⟩ | ⟨hp, he⟩ <;> rwa [hp]
  | wake _ _ hp => exact h.of_wake hp
  | release _ _ hp => exact h.of_release hp
  | waitCount _ _ _ hp =>
    apply h.of_countTick
    rcases hp with ⟨hp, -, he⟩ | ⟨hp, -, he⟩ | ⟨hp, -, he⟩ | ⟨hp, -, he⟩ | ⟨hp, -, he⟩ <;> rwa [hp]
  | satisfied p _ _ _ hp =>
    rcases hp with ⟨hp, -, rfl⟩ | ⟨hp, -, rfl⟩ | ⟨hp, -, rfl⟩ | ⟨hp, -, rfl⟩ <;>
      exact h.of_satisfied (by rw [hp]; decide) (by decide) rfl (by rw [hp]; decide) (by rw [hp]; decide)
  | expired k _ _ _ hp =>
    apply h.of_raiseFail k
    rcases hp with ⟨hp, -⟩ | ⟨hp, -⟩ | ⟨hp, -⟩ | ⟨hp, -⟩ | ⟨hp, -⟩ <;> rw [hp] <;> decide
  | sample b v _ _ _ hp _ _ hv =>
    exact h.of_undriven_change (by rw [hp]; decide) (by decide) (h.holdsItsBits_of_sample b hp hv)
  | badPulse k _ _ _ hp => exact h.of_raiseFail k (by rw [hp]; decide)
  | gapEnd _ _ hp => exact h.of_gapEnd hp
  | validFrame _ _ hp => exact h.of_validFrame hp _ _
  | badFrame _ _ hp => exact h.of_raiseFail _ (by rw [hp]; decide)

/-- Settles O49: each move of a tick keeps the invariant, and the end of the tick changes no register. -/
theorem everyTickKeepsTheInvariant : Obligations.EveryTickKeepsTheInvariant := by
  intro s t h hstep
  obtain ⟨u, hmove, rfl⟩ := step_move hstep
  exact (h.of_move hmove).congr (sameRegisters.refl u)

/-- Settles O48: the reset state is the reset of a conforming core. -/
theorem resetStateMeetsTheInvariant : Obligations.ResetStateMeetsTheInvariant :=
  Invariant.of_resetRegisters (s := State.reset) ⟨rfl, by decide, by decide⟩

end Sys2Proof.Machine
end

section
/-! PROOFS. The state chapter beside its invariant: the parameters, the state after reset, the line where no
phase reads it, the status flags and the output ports. -/

namespace Sys2Proof.Machine

/-! ### The parameters (R33) -/

theorem step_keeps_cfg {s t : State} (h : step s = .next t) : t.cfg = s.cfg := by
  obtain ⟨u, hu, rfl⟩ := step_eq_next.1 h
  exact (exec_keepsEnvironment s _ u hu).cfg

theorem runsTo_keeps_cfg {n : Nat} {s t : State} (h : RunsTo n s t) : t.cfg = s.cfg := by
  induction n generalizing s with
  | zero => rw [next_eq_next.1 h]
  | succ n ih =>
    obtain ⟨u, hu, hrun⟩ := runsTo_succ.1 h
    exact (ih hrun).trans (step_keeps_cfg hu)

/-- Settles O46, from the rule that every operation keeps the environment. -/
theorem parametersNeverChange : Obligations.ParametersNeverChange :=
  ⟨fun i s t h => (exec_keepsEnvironment s i t h).cfg, fun _ _ => step_keeps_cfg, fun _ _ _ => runsTo_keeps_cfg⟩

/-! ### Reset (R39) -/

/-- A tick with `rst` = 1 (R260). -/
theorem step_of_rst {s : State} (hr : (currentInput s).rst = true) :
    step s = .next (endTick (resetRegisters s)) :=
  step_eq_next.2 ⟨_, by rw [show fetch s = .reset (currentInput s).start by simp [fetch, command, hr]]; rfl, rfl⟩

/-- The states that the statement about reset speaks of have every register as reset writes it. -/
theorem eq_resetRegisters {s : State}
    (h : s = State.reset ∨ ∃ r, (currentInput r).rst = true ∧ step r = .next s) : ∃ r, s = resetRegisters r := by
  rcases h with rfl | ⟨r, hr, hstep⟩
  · exact ⟨State.reset, rfl⟩
  · rw [step_of_rst hr] at hstep
    exact ⟨endTick r, next_eq_next.1 hstep⟩

/-- Settles O2: the table of R39 is what `resetRegisters` writes. -/
theorem stateAfterReset : Obligations.StateAfterReset := by
  intro s h
  obtain ⟨r, rfl⟩ := eq_resetRegisters h
  exact ⟨rfl, rfl, rfl, fun _ _ hv => Frame.get?_zero_byte hv, rfl, rfl, rfl, rfl, rfl, rfl, rfl⟩

/-! ### The line where it is not read (R22) -/

/-- The end of a tick drops the tick's inputs: the level presented for it is gone. -/
theorem endTick_present (i j : Inputs) (s : State) : endTick (present i s) = endTick (present j s) := rfl

theorem step_eq_afterTick (s : State) : step s = afterTick (exec (fetch s) s) := rfl

theorem afterTick_hold_present {bound : Nat} {k : State → Answer} {i j : Inputs} {s : State}
    (hk : afterTick (k (present i s)) = afterTick (k (present j s))) :
    afterTick (hold bound k (present i s)) = afterTick (hold bound k (present j s)) := by
  by_cases he : elapsed s = bound
  · rwa [hold_last (s := present i s) he, hold_last (s := present j s) he]
  · rw [hold_count (s := present i s) he, hold_count (s := present j s) he]
    rfl

theorem afterTick_validateFrame_present (f : Frame) (i j : Inputs) (s : State) :
    afterTick (validateFrame f (present i s)) = afterTick (validateFrame f (present j s)) := by
  unfold validateFrame
  split <;> rfl

theorem afterTick_execDecode_present (i j : Inputs) (s : State) :
    afterTick (execDecode (present i s)) = afterTick (execDecode (present j s)) := by
  have hbusy : ∀ x, busy (present x s) = busy s := fun _ => rfl
  unfold execDecode
  rw [hbusy, hbusy]
  split <;> rfl

/-- In a phase that does not read the line, the phase's rule does not depend on the tick's inputs. -/
theorem afterTick_execNop_present {i j : Inputs} {s : State} (hp : readsLine s.ph = false) :
    afterTick (execNop (present i s)) = afterTick (execNop (present j s)) := by
  cases hq : s.ph <;> simp only [execNop, present_ph, hq]
  case idle | done | failed => rfl
  case hsLow =>
    apply afterTick_hold_present
    cases ho : s.lineOe with
    | true => rw [lineWrite_of_output (s := present i s) _ ho, lineWrite_of_output (s := present j s) _ ho]; rfl
    | false => rw [lineWrite_of_input (s := present i s) _ ho, lineWrite_of_input (s := present j s) _ ho]
  case hsRel | smGap => exact afterTick_hold_present rfl
  case validate => exact afterTick_validateFrame_present s.f i j s
  case hsAck1 | hsAck2 | smWaitLow | smWaitHigh | smMeasure => simp [hq, readsLine] at hp

/-- Settles O43: the command is the same, and none of the three commands reads the line. -/
theorem lineIsIgnoredWhereNotRead : Obligations.LineIsIgnoredWhereNotRead := by
  intro s rst start a b h
  rw [step_eq_afterTick, step_eq_afterTick]
  simp only [fetch, currentInput_present]
  cases rst with
  | true => rfl
  | false =>
    cases start with
    | true => exact afterTick_execDecode_present _ _ s
    | false => exact afterTick_execNop_present (by simpa using h)

/-! ### The status flags and the ports (R21, R32, R34) -/

theorem done_eq_true_iff {s : State} : done s = true ↔ s.ph = .done := beq_iff_eq

theorem failed_eq_true_iff {s : State} : failed s = true ↔ s.ph = .failed := beq_iff_eq

theorem busy_eq_true_iff {s : State} : busy s = true ↔ s.ph ≠ .idle ∧ s.ph ≠ .done ∧ s.ph ≠ .failed := by
  rw [← Bool.not_eq_false, busy_eq_false_iff, not_or, not_or]

/-- Settles O53: `busy` is 1 exactly where none of the other three is, and those name different phases. -/
theorem oneStatusAtATime : Obligations.OneStatusAtATime := by
  intro s
  change [s.ph == .idle, !(s.ph == .idle || s.ph == .done || s.ph == .failed), s.ph == .done,
    s.ph == .failed].count true = 1
  cases s.ph <;> rfl

theorem result_of_done {s : State} (hp : s.ph = .done) : result s = .done (readingOf s.hum s.temp) := by
  simp [result, hp]

theorem result_of_failed {s : State} {k : FailKind} (hp : s.ph = .failed) (hk : s.err = some k) :
    result s = .failed k := by
  simp [result, hp, hk]

theorem result_of_pending {s : State} (hd : s.ph ≠ .done) (hf : s.ph ≠ .failed) : result s = .pending := by
  cases hp : s.ph with
  | done => exact absurd hp hd
  | failed => exact absurd hp hf
  | _ => simp [result, hp]

/-- The output `err` shows the code of the register `ERR` (R76). -/
theorem outputs_err_of_eq {s : State} {e : Option FailKind} (h : s.err = e) : (outputs s).err = errCode e :=
  congrArg errCode h

/-- The outputs depend on the registers only (R21). -/
theorem outputs_congr {s t : State} (h : sameRegisters s t) : outputs s = outputs t := by
  obtain ⟨hph, -, -, -, herr, hhum, htemp, hoe, hout, -⟩ := h
  simp [outputs, busy, idle, done, failed, hph, herr, hhum, htemp, hoe, hout]

/-- Settles O60: the flags name their phases, `ERR` is shown by its code, and the result goes by the phase. -/
theorem portsShowTheRegisters : Obligations.PortsShowTheRegisters := by
  refine ⟨fun s => ⟨rfl, rfl, busy_eq_true_iff, done_eq_true_iff, failed_eq_true_iff, rfl, rfl,
    outputs_err_of_eq, outputs_err_of_eq, outputs_err_of_eq, outputs_err_of_eq, outputs_err_of_eq,
    outputs_err_of_eq, fun hd => ?_, fun hf k hk => result_of_failed (failed_eq_true_iff.1 hf) hk,
    fun hd hf => ?_⟩, fun s t => outputs_congr⟩
  · refine ⟨_, result_of_done (done_eq_true_iff.1 hd), ?_, ?_⟩ <;>
      simp only [readingOf, outputs] <;> ring
  · apply result_of_pending
    · exact fun hp => Bool.false_ne_true (hd.symm.trans (done_eq_true_iff.2 hp))
    · exact fun hp => Bool.false_ne_true (hf.symm.trans (failed_eq_true_iff.2 hp))

end Sys2Proof.Machine
end

section
/-! PROOFS. The frame as one word: the word bit by bit, its fields, and what it holds after a run of
`SHIFT_IN`s (R52, R53, R151). -/

namespace Sys2Proof.Machine

/-! ### One bit into the least significant end -/

/-- A shift left with the bit in the free place, at any width. -/
theorem shiftLeft_or_bitNat {n : Nat} (w : BitVec n) (b : Bool) :
    (w <<< 1) ||| BitVec.ofNat n (bitNat b) = w.shiftConcat b := by
  apply BitVec.eq_of_getLsbD_eq
  intro j hj
  rw [BitVec.getLsbD_shiftConcat, BitVec.getLsbD_or, BitVec.getLsbD_shiftLeft, BitVec.getLsbD_ofNat]
  cases j with
  | zero => cases b <;> simp [bitNat, hj]
  | succ j =>
    have hzero : (bitNat b).testBit (j + 1) = false := by cases b <;> simp [bitNat, Nat.testBit_succ]
    simp [hj, hzero]

theorem shiftByte_eq_shiftConcat : shiftByte = BitVec.shiftConcat := by
  funext v b
  exact shiftLeft_or_bitNat v b

/-- Bits shifted in one after another: the last of them is bit 0, the one before it bit 1, and so on. -/
theorem getLsbD_foldl_shiftConcat {n k : Nat} {bits : List Bool} (w : BitVec n) (hn : bits.length ≤ n)
    (hk : k < bits.length) :
    (bits.foldl BitVec.shiftConcat w).getLsbD (bits.length - 1 - k) = bits.getD k false := by
  induction bits using List.reverseRecOn with
  | nil => cases hk
  | append_singleton bits b ih =>
    rw [List.length_append, List.length_singleton] at hn hk ⊢
    rw [List.foldl_concat, BitVec.getLsbD_shiftConcat]
    obtain hlt | rfl := Nat.lt_succ_iff_lt_or_eq.1 hk
    · have hplace : bits.length + 1 - 1 - k = (bits.length - 1 - k) + 1 := by omega
      have hin : bits.length - 1 - k + 1 < n := by omega
      rw [List.getD_append _ _ _ _ hlt, ← ih (by omega) hlt, hplace]
      simp [hin]
    · have hpos : 0 < n := by omega
      simp [hpos]

/-! ### The word of a frame -/

/-- Byte `i` of a frame is the `i`-th byte of its word from the top (R53). -/
theorem Frame.getLsbD_word {f : Frame} {i m : Nat} {v : Byte} (hv : f.get? i = some v) (hm : m < 8) :
    f.word.getLsbD (8 * (4 - i) + m) = v.getLsbD m := by
  simp only [Frame.word, BitVec.getLsbD_append]
  rcases i with _ | _ | _ | _ | _ | i <;> cases hv <;>
    (simp (disch := omega) only [if_pos, if_neg]; congr 1; omega)

theorem Frame.word_negative (f : Frame) : f.word.getLsbD 23 = f.negative :=
  Frame.getLsbD_word (i := 2) (m := 7) rfl (by decide)

theorem Frame.word_checksum (f : Frame) : f.word.extractLsb' 0 8 = f.f4 :=
  BitVec.extractLsb'_append_eq_right

theorem Frame.word_humidity (f : Frame) : f.word.extractLsb' 24 16 = f.humidity := by
  apply BitVec.eq_of_getLsbD_eq
  intro j hj
  by_cases hlow : j < 8
  · have h := Frame.getLsbD_word (f := f) (i := 1) rfl hlow
    simp [Frame.humidity, hj, hlow, h]
  · have h := Frame.getLsbD_word (f := f) (i := 0) (m := j - 8) rfl (by omega)
    rw [show 8 * (4 - 0) + (j - 8) = 24 + j by omega] at h
    have hhigh : f.f1.getLsbD j = false := BitVec.getLsbD_of_ge _ _ (by omega)
    simp [Frame.humidity, hj, hlow, h, hhigh]

theorem Frame.word_magnitude (f : Frame) : f.word.extractLsb' 8 15 = f.magnitude := by
  apply BitVec.eq_of_getLsbD_eq
  intro j hj
  by_cases hlow : j < 8
  · have h := Frame.getLsbD_word (f := f) (i := 3) rfl hlow
    simp [Frame.magnitude, hj, hlow, h]
  · have h := Frame.getLsbD_word (f := f) (i := 2) (m := j - 8) rfl (by omega)
    rw [show 8 * (4 - 2) + (j - 8) = 8 + j by omega] at h
    have hhigh : f.f3.getLsbD j = false := BitVec.getLsbD_of_ge _ _ (by omega)
    have hmask : (0x7F#8).getLsbD (j - 8) = true :=
      (by decide : ∀ m < 7, (0x7F#8).getLsbD m = true) _ (by omega)
    have hin : j - 8 < 15 := by omega
    simp only [Frame.magnitude, BitVec.getLsbD_extractLsb', BitVec.getLsbD_or, BitVec.getLsbD_shiftLeft,
      BitVec.getLsbD_setWidth, BitVec.getLsbD_and, h, hhigh, hmask]
    simp [hlow, hj, hin]

/-! ### A run of shift-ins -/

/-- The bits of byte `i` in a sequence of bits in the order of the line (R54). -/
def byteBits (bits : List Bool) (i : Nat) : List Bool := (bits.drop (8 * i)).take 8

theorem byteBits_getD (bits : List Bool) (i : Nat) {m : Nat} (hm : m < 8) :
    (byteBits bits i).getD m false = bits.getD (8 * i + m) false := by
  simp [byteBits, hm]

theorem byteBits_concat_same (bits : List Bool) (b : Bool) :
    byteBits (bits ++ [b]) (bits.length / 8) = byteBits bits (bits.length / 8) ++ [b] := by
  unfold byteBits
  have hrest : (bits.drop (8 * (bits.length / 8))).length < 8 := by rw [List.length_drop]; omega
  rw [List.drop_append_of_le_length (by omega), List.take_of_length_le (by simpa using hrest),
    List.take_of_length_le hrest.le]

theorem byteBits_concat_other (bits : List Bool) (b : Bool) {i : Nat} (hi : i ≠ bits.length / 8) :
    byteBits (bits ++ [b]) i = byteBits bits i := by
  unfold byteBits
  rcases Nat.lt_or_gt_of_ne hi with hlt | hgt
  · rw [List.drop_append_of_le_length (by omega),
      List.take_append_of_le_length (by rw [List.length_drop]; omega)]
  · have hpast : bits.length + 1 ≤ 8 * i := by omega
    rw [List.drop_of_length_le (by simpa using hpast), List.drop_of_length_le (by omega)]

/-- The frame registers after exactly these bits were shifted into an empty frame (R151): `BITCNT` counts
them, and each byte holds its own, the last in its bit 0. -/
structure Assembled (bits : List Bool) (s : State) : Prop where
  count : s.bitcnt.toNat = bits.length
  bytes : ∀ i v, s.f.get? i = some v → v = (byteBits bits i).foldl shiftByte 0

theorem Assembled.of_empty {s : State} (hb : s.bitcnt = 0) (hf : s.f = Frame.zero) : Assembled [] s where
  count := by simp [hb]
  bytes i v hv := by
    rw [hf] at hv
    simpa [byteBits] using Frame.get?_zero_byte hv

/-- One more `SHIFT_IN`: only the byte that `BITCNT` points at changes. -/
theorem Assembled.of_shiftBit {bits : List Bool} {s t : State} {b : Bool} (h : Assembled bits s)
    (hs : shiftBit b s = .next t) : Assembled (bits ++ [b]) t := by
  obtain ⟨v, hv, rfl⟩ := shiftBit_eq_next.1 hs
  have hindex : frameIndex s = bits.length / 8 := by rw [frameIndex, h.count]
  have hroom : frameIndex s < 5 := by
    by_contra hfull
    rw [Frame.get?_of_ge _ (by omega)] at hv
    cases hv
  refine ⟨?_, fun i w hw => ?_⟩
  · have hcount := h.count
    simp only [List.length_append, List.length_singleton]
    bv_omega
  · by_cases hi : i = frameIndex s
    · subst hi
      rw [Frame.get?_set_same _ _ hroom, Option.some.injEq] at hw
      rw [hindex, byteBits_concat_same, List.foldl_concat, ← hindex, ← h.bytes _ v hv, hw]
    · rw [Frame.get?_set_other _ _ hi] at hw
      rw [byteBits_concat_other _ _ (hindex ▸ hi), ← h.bytes i w hw]

theorem shiftAll_concat (bits : List Bool) (b : Bool) (s : State) :
    shiftAll (bits ++ [b]) s = andThen (shiftAll bits s) (exec (.shiftIn b)) :=
  List.foldl_concat ..

theorem Assembled.of_shiftAll {bits : List Bool} {s t : State} (hb : s.bitcnt = 0) (hf : s.f = Frame.zero)
    (h : shiftAll bits s = .next t) : Assembled bits t := by
  induction bits using List.reverseRecOn generalizing t with
  | nil => exact next_eq_next.1 h ▸ .of_empty hb hf
  | append_singleton bits b ih =>
    rw [shiftAll_concat] at h
    obtain ⟨u, hu, hlast⟩ := andThen_eq_next.1 h
    exact (ih hu).of_shiftBit hlast

/-- The `k`-th bit shifted in is the `k`-th bit of the frame (R53). -/
theorem Assembled.bit_eq {bits : List Bool} {s : State} (h : Assembled bits s) (hlen : bits.length = 40)
    {k : Nat} (hk : k < 40) : s.f.bit k = bits.getD k false := by
  obtain ⟨v, hv⟩ := s.f.get?_of_lt (i := k / 8) (by omega)
  have hbits : (byteBits bits (k / 8)).length = 8 := by simp [byteBits]; omega
  have hplace : 39 - k = 8 * (4 - k / 8) + (7 - k % 8) := by omega
  have hlast : 7 - k % 8 = (byteBits bits (k / 8)).length - 1 - k % 8 := by omega
  rw [Frame.bit, hplace, Frame.getLsbD_word hv (by omega), h.bytes _ v hv, shiftByte_eq_shiftConcat,
    hlast, getLsbD_foldl_shiftConcat _ hbits.le (by omega), byteBits_getD _ _ (by omega), Nat.div_add_mod]

/-- Settles O31: the word after forty `SHIFT_IN`s has the bits of the forty shifts, and every word has its
frame's fields. -/
theorem frameIsOneWord : Obligations.FrameIsOneWord := by
  refine ⟨fun s bits t hlen hb hf h => ?_, fun f =>
    ⟨f.word_humidity, f.word_negative, f.word_magnitude, f.word_checksum⟩⟩
  have hbit : ∀ k, k < 40 → t.f.bit k = bits.getD k false := fun k hk =>
    (Assembled.of_shiftAll hb hf h).bit_eq hlen hk
  refine ⟨?_, ?_, hbit⟩
  · simp only [shiftLeft_or_bitNat]
    apply BitVec.eq_of_getLsbD_eq
    intro j hj
    have hplace : j = bits.length - 1 - (39 - j) := by omega
    have hsame : 39 - (39 - j) = j := by omega
    rw [hplace, getLsbD_foldl_shiftConcat _ hlen.le (by omega), ← hplace, ← hbit _ (by omega), Frame.bit,
      hsame]
  · apply List.ext_getElem
    · simp [Frame.bits, hlen]
    · intro k hk hk'
      simpa [Frame.bits, hk'] using hbit k (by omega)

end Sys2Proof.Machine
end

section
/-! PROOFS. The encoding: for each format, exactly which words the decoder reads and as what; and from that, the
two directions in which decoder and encoder agree (R70 to R78). -/

namespace Sys2Proof

/-! ### The codes of the closed types (R74, R76, R77) -/

theorem Phase.ofCode_eq_some {w : Nat} {p : Phase} : Phase.ofCode w = some p ↔ w = p.code := by
  constructor
  · intro h
    unfold Phase.ofCode at h
    split at h <;> cases h <;> rfl
  · rintro rfl
    cases p <;> rfl

theorem Phase.code_lt (p : Phase) : p.code < 2 ^ 4 := by cases p <;> decide

theorem Phase.instr_wellFormed (p : Phase) : p.instr.wellFormed = true := by cases p <;> rfl

theorem Phase.encode_instr (p : Phase) : encode p.instr = some ⟨.phase, p.code⟩ := by cases p <;> rfl

theorem FailKind.ofCode_eq_some {w : Nat} {k : FailKind} : FailKind.ofCode w = some k ↔ w = k.code := by
  constructor
  · intro h
    unfold FailKind.ofCode at h
    split at h <;> cases h <;> rfl
  · rintro rfl
    cases k <;> rfl

theorem FailKind.code_lt (k : FailKind) : k.code < 2 ^ 3 := by cases k <;> decide

theorem FailKind.instr_wellFormed (k : FailKind) : k.instr.wellFormed = true := by cases k <;> rfl

theorem FailKind.encode_instr (k : FailKind) : encode k.instr = some ⟨.fail, k.code⟩ := by cases k <;> rfl

theorem LineOp.ofCode_eq_some {w : Nat} {o : LineOp} : LineOp.ofCode w = some o ↔ w = o.code := by
  constructor
  · intro h
    unfold LineOp.ofCode at h
    split at h <;> cases h <;> rfl
  · rintro rfl
    cases o <;> rfl

theorem LineOp.code_lt (o : LineOp) : o.code < 2 ^ 3 := by cases o <;> decide

theorem LineOp.instr_wellFormed (o : LineOp) : o.instr.wellFormed = true := by cases o <;> rfl

theorem LineOp.encode_instr (o : LineOp) : encode o.instr = some ⟨.lineop, o.code⟩ := by cases o <;> rfl

/-! ### The two bits of a command (R78) -/

theorem cmdWord_lt (rst start : Bool) : cmdWord rst start < 2 ^ 2 := by cases rst <;> cases start <;> decide

theorem bitField_cmdWord_rst (rst start : Bool) : (bitField (cmdWord rst start) 1 1 == 1) = rst := by
  cases rst <;> cases start <;> rfl

theorem bitField_cmdWord_start (rst start : Bool) : (bitField (cmdWord rst start) 0 0 == 1) = start := by
  cases rst <;> cases start <;> rfl

theorem eq_cmdWord {w : Nat} (hw : w < 2 ^ 2) : w = cmdWord (bitField w 1 1 == 1) (bitField w 0 0 == 1) := by
  interval_cases w <;> rfl

theorem command_wellFormed (rst start : Bool) : (command rst start).wellFormed = true := by
  cases rst <;> cases start <;> rfl

theorem encode_command (rst start : Bool) :
    encode (command rst start) = some ⟨.cmd, cmdWord rst start⟩ := by
  cases rst <;> cases start <;> rfl

/-! ### The durations of the pulse symbols (R73) -/

theorem wellFormed_short {d : Nat} : (Instr.short d).wellFormed = true ↔ 1 ≤ d ∧ d ≤ 25 :=
  decide_eq_true_iff.trans (and_congr_right' Nat.lt_succ_iff)

theorem wellFormed_zero {d : Nat} : (Instr.zero d).wellFormed = true ↔ 26 ≤ d ∧ d ≤ 28 :=
  decide_eq_true_iff

theorem wellFormed_ambiguous {d : Nat} : (Instr.ambiguous d).wellFormed = true ↔ 29 ≤ d ∧ d ≤ 69 :=
  decide_eq_true_iff.trans (and_congr_right' Nat.lt_succ_iff)

theorem wellFormed_one {d : Nat} : (Instr.one d).wellFormed = true ↔ 70 ≤ d ∧ d ≤ 100000 :=
  decide_eq_true_iff

theorem wellFormed_overlong {d : Nat} : (Instr.overlong d).wellFormed = true ↔ 100000 < d :=
  decide_eq_true_iff

/-- `i` is one of the five symbols of the pulse alphabet, of duration `d`. -/
abbrev IsPulse (i : Instr) (d : Nat) : Prop :=
  i = .short d ∨ i = .zero d ∨ i = .ambiguous d ∨ i = .one d ∨ i = .overlong d

theorem isPulse_short (d : Nat) : IsPulse (.short d) d := .inl rfl

theorem isPulse_zero (d : Nat) : IsPulse (.zero d) d := .inr (.inl rfl)

theorem isPulse_ambiguous (d : Nat) : IsPulse (.ambiguous d) d := .inr (.inr (.inl rfl))

theorem isPulse_one (d : Nat) : IsPulse (.one d) d := .inr (.inr (.inr (.inl rfl)))

theorem isPulse_overlong (d : Nat) : IsPulse (.overlong d) d := .inr (.inr (.inr (.inr rfl)))

theorem pulseSymbol_eq (d : Nat) :
    pulseSymbol d =
      if d < 26 then .short d else if d ≤ 28 then .zero d else if d < 70 then .ambiguous d
      else if d ≤ 100000 then .one d else .overlong d := rfl

theorem pulseSymbol_isPulse (d : Nat) : IsPulse (pulseSymbol d) d := by
  rw [pulseSymbol_eq]
  split_ifs
  · exact isPulse_short d
  · exact isPulse_zero d
  · exact isPulse_ambiguous d
  · exact isPulse_one d
  · exact isPulse_overlong d

theorem IsPulse.encode_eq {i : Instr} {d : Nat} (h : IsPulse i d) : encode i = some ⟨.pulse, d⟩ := by
  rcases h with rfl | rfl | rfl | rfl | rfl <;> rfl

/-- The ranges of the five symbols cover every duration from 1 on. -/
theorem pulseSymbol_wellFormed {d : Nat} (h : 1 ≤ d) : (pulseSymbol d).wellFormed = true := by
  rw [pulseSymbol_eq]
  split_ifs
  · exact wellFormed_short.2 (by omega)
  · exact wellFormed_zero.2 (by omega)
  · exact wellFormed_ambiguous.2 (by omega)
  · exact wellFormed_one.2 (by omega)
  · exact wellFormed_overlong.2 (by omega)

/-- The ranges of the five symbols do not overlap. -/
theorem IsPulse.eq_pulseSymbol {i : Instr} {d : Nat} (h : IsPulse i d) (hw : i.wellFormed = true) :
    1 ≤ d ∧ i = pulseSymbol d := by
  rw [pulseSymbol_eq]
  rcases h with rfl | rfl | rfl | rfl | rfl
  · have := wellFormed_short.1 hw
    exact ⟨by omega, by rw [if_pos (by omega)]⟩
  · have := wellFormed_zero.1 hw
    exact ⟨by omega, by rw [if_neg (by omega), if_pos (by omega)]⟩
  · have := wellFormed_ambiguous.1 hw
    exact ⟨by omega, by rw [if_neg (by omega), if_neg (by omega), if_pos (by omega)]⟩
  · have := wellFormed_one.1 hw
    exact ⟨by omega, by rw [if_neg (by omega), if_neg (by omega), if_neg (by omega), if_pos (by omega)]⟩
  · have := wellFormed_overlong.1 hw
    exact ⟨by omega, by rw [if_neg (by omega), if_neg (by omega), if_neg (by omega), if_neg (by omega)]⟩

/-! ### The fields of a frame's word (R71) -/

theorem bitNat_le (b : Bool) : bitNat b ≤ 1 := by cases b <;> decide

theorem bitNat_beq (b : Bool) : (bitNat b == 1) = b := by cases b <;> rfl

theorem frameOfWord_frameWord (h : BitVec 16) (s : Bool) (m : BitVec 15) (c : Byte) :
    frameOfWord (frameWord h s m c) = .frame h s m c := by
  have hh := h.isLt
  have hm := m.isLt
  have hc := c.isLt
  have hs := bitNat_le s
  have h1 : bitField (frameWord h s m c) 39 24 = h.toNat := by unfold bitField frameWord; omega
  have h2 : bitField (frameWord h s m c) 23 23 = bitNat s := by unfold bitField frameWord; omega
  have h3 : bitField (frameWord h s m c) 22 8 = m.toNat := by unfold bitField frameWord; omega
  have h4 : bitField (frameWord h s m c) 7 0 = c.toNat := by unfold bitField frameWord; omega
  simp only [frameOfWord, h1, h2, h3, h4, bitNat_beq, BitVec.ofNat_toNat, BitVec.setWidth_eq]

theorem encode_frameOfWord {w : Nat} (hw : w < 2 ^ 40) : encode (frameOfWord w) = some ⟨.frame, w⟩ := by
  have hsign : bitNat (bitField w 23 23 == 1) = bitField w 23 23 := by
    have hlt : bitField w 23 23 < 2 := Nat.mod_lt _ (by decide)
    interval_cases bitField w 23 23 <;> rfl
  have hword : frameWord (BitVec.ofNat 16 (bitField w 39 24)) (bitField w 23 23 == 1)
      (BitVec.ofNat 15 (bitField w 22 8)) (BitVec.ofNat 8 (bitField w 7 0)) = w := by
    simp only [frameWord, hsign, BitVec.toNat_ofNat]
    unfold bitField
    omega
  simp only [frameOfWord, encode, hword]

/-! ### What the decoder reads, format by format -/

theorem decode_eq_ok {fmt : Format} {w : Nat} {i : Instr} :
    decode fmt w = .ok i ↔ (∀ n, fmt.width = some n → w < 2 ^ n) ∧ decodeFits fmt w = .ok i := by
  unfold decode
  cases fmt.width with
  | none => simp
  | some n => by_cases hw : w < 2 ^ n <;> simp [hw]

theorem decode_cmd_eq_ok {w : Nat} {i : Instr} :
    decode .cmd w = .ok i ↔ ∃ rst start, w = cmdWord rst start ∧ i = command rst start := by
  rw [decode_eq_ok]
  constructor
  · rintro ⟨hw, h⟩
    cases h
    exact ⟨_, _, eq_cmdWord (hw _ rfl), rfl⟩
  · rintro ⟨rst, start, rfl, rfl⟩
    refine ⟨fun n hn => ?_, ?_⟩
    · cases hn; exact cmdWord_lt rst start
    · simp only [decodeFits, bitField_cmdWord_rst, bitField_cmdWord_start]

/-- A format whose words are the codes of a closed type. -/
theorem decode_eq_ok_of_codes {α : Type} {ofCode : Nat → Option α} {code : α → Nat} {instr : α → Instr}
    {fmt : Format} {n w : Nat} {e : DecodeError} {i : Instr} (hwidth : fmt.width = some n)
    (hlt : ∀ a, code a < 2 ^ n) (hcode : ∀ {w a}, ofCode w = some a ↔ w = code a)
    (hfits : decodeFits fmt w = (ofCode w).elim (.error e) fun a => .ok (instr a)) :
    decode fmt w = .ok i ↔ ∃ a, w = code a ∧ i = instr a := by
  rw [decode_eq_ok, hfits]
  constructor
  · rintro ⟨-, h⟩
    cases ha : ofCode w with
    | none => simp [ha] at h
    | some a =>
      simp only [ha, Option.elim_some, Except.ok.injEq] at h
      exact ⟨a, hcode.1 ha, h.symm⟩
  · rintro ⟨a, rfl, rfl⟩
    refine ⟨fun k hk => ?_, by rw [hcode.2 rfl, Option.elim_some]⟩
    rw [hwidth, Option.some.injEq] at hk
    exact hk ▸ hlt a

theorem decode_phase_eq_ok {w : Nat} {i : Instr} :
    decode .phase w = .ok i ↔ ∃ p : Phase, w = p.code ∧ i = p.instr :=
  decode_eq_ok_of_codes (e := .unusedPhase) rfl Phase.code_lt Phase.ofCode_eq_some
    (by simp only [decodeFits]; cases Phase.ofCode w <;> rfl)

theorem decode_fail_eq_ok {w : Nat} {i : Instr} :
    decode .fail w = .ok i ↔ ∃ k : FailKind, w = k.code ∧ i = k.instr :=
  decode_eq_ok_of_codes (e := if w = 0 then .noFailure else .unusedFail) rfl FailKind.code_lt FailKind.ofCode_eq_some
    (by simp only [decodeFits]; cases FailKind.ofCode w <;> rfl)

theorem decode_lineop_eq_ok {w : Nat} {i : Instr} :
    decode .lineop w = .ok i ↔ ∃ o : LineOp, w = o.code ∧ i = o.instr :=
  decode_eq_ok_of_codes (e := .unusedLineOp) rfl LineOp.code_lt LineOp.ofCode_eq_some
    (by simp only [decodeFits]; cases LineOp.ofCode w <;> rfl)

theorem decode_pulse_eq_ok {w : Nat} {i : Instr} :
    decode .pulse w = .ok i ↔ 1 ≤ w ∧ i = pulseSymbol w := by
  rw [decode_eq_ok]
  constructor
  · rintro ⟨-, h⟩
    simp only [decodeFits] at h
    split at h
    · cases h
    · next hw =>
      cases h
      exact ⟨Nat.one_le_iff_ne_zero.2 hw, rfl⟩
  · rintro ⟨hw, rfl⟩
    exact ⟨fun n hn => (nomatch hn), if_neg (Nat.one_le_iff_ne_zero.1 hw)⟩

theorem decode_frame_eq_ok {w : Nat} {i : Instr} :
    decode .frame w = .ok i ↔ w < 2 ^ 40 ∧ i = frameOfWord w := by
  rw [decode_eq_ok]
  constructor
  · rintro ⟨hw, h⟩
    cases h
    exact ⟨hw 40 rfl, rfl⟩
  · rintro ⟨hw, rfl⟩
    exact ⟨fun n hn => Option.some.inj hn ▸ hw, rfl⟩

theorem decode_cmdWord (rst start : Bool) : decode .cmd (cmdWord rst start) = .ok (command rst start) :=
  decode_cmd_eq_ok.2 ⟨rst, start, rfl, rfl⟩

theorem decode_phase_code (p : Phase) : decode .phase p.code = .ok p.instr :=
  decode_phase_eq_ok.2 ⟨p, rfl, rfl⟩

theorem decode_fail_code (k : FailKind) : decode .fail k.code = .ok k.instr :=
  decode_fail_eq_ok.2 ⟨k, rfl, rfl⟩

theorem decode_lineop_code (o : LineOp) : decode .lineop o.code = .ok o.instr :=
  decode_lineop_eq_ok.2 ⟨o, rfl, rfl⟩

theorem decode_frameWord (h : BitVec 16) (s : Bool) (m : BitVec 15) (c : Byte) :
    decode .frame (frameWord h s m c) = .ok (.frame h s m c) :=
  decode_frame_eq_ok.2 ⟨Laws.EncodingFits.frameWord_lt h s m c, (frameOfWord_frameWord h s m c).symm⟩

theorem IsPulse.decode_eq {i : Instr} {d : Nat} (h : IsPulse i d) (hw : i.wellFormed = true) :
    decode .pulse d = .ok i :=
  decode_pulse_eq_ok.2 (h.eq_pulseSymbol hw)

/-! ### Decoder and encoder agree -/

/-- Settles O57: what the words of each format are read as, and the word of each of those. -/
theorem encodeGivesBackTheWord : Obligations.EncodeGivesBackTheWord := by
  intro fmt w i h
  cases fmt with
  | frame =>
    obtain ⟨hw, rfl⟩ := decode_frame_eq_ok.1 h
    exact ⟨rfl, encode_frameOfWord hw⟩
  | pulse =>
    obtain ⟨hw, rfl⟩ := decode_pulse_eq_ok.1 h
    exact ⟨pulseSymbol_wellFormed hw, (pulseSymbol_isPulse w).encode_eq⟩
  | phase =>
    obtain ⟨p, rfl, rfl⟩ := decode_phase_eq_ok.1 h
    exact ⟨p.instr_wellFormed, p.encode_instr⟩
  | fail =>
    obtain ⟨k, rfl, rfl⟩ := decode_fail_eq_ok.1 h
    exact ⟨k.instr_wellFormed, k.encode_instr⟩
  | lineop =>
    obtain ⟨o, rfl, rfl⟩ := decode_lineop_eq_ok.1 h
    exact ⟨o.instr_wellFormed, o.encode_instr⟩
  | cmd =>
    obtain ⟨rst, start, rfl, rfl⟩ := decode_cmd_eq_ok.1 h
    exact ⟨command_wellFormed rst start, encode_command rst start⟩

/-- Settles O56: each operation with a word is what its format's words are read as; the operand form of `FAIL`
is read as the row of its kind. -/
theorem decodeReadsBackEncode : Obligations.DecodeReadsBackEncode
  | .reset start, _, _, rfl => decode_cmdWord true start
  | .decode, _, _, rfl => decode_cmdWord false true
  | .nop, _, _, rfl => decode_cmdWord false false
  | .idle, _, _, rfl => decode_phase_code .idle
  | .hsLow, _, _, rfl => decode_phase_code .hsLow
  | .hsRel, _, _, rfl => decode_phase_code .hsRel
  | .hsAck1, _, _, rfl => decode_phase_code .hsAck1
  | .hsAck2, _, _, rfl => decode_phase_code .hsAck2
  | .smWaitLow, _, _, rfl => decode_phase_code .smWaitLow
  | .smWaitHigh, _, _, rfl => decode_phase_code .smWaitHigh
  | .smMeasure, _, _, rfl => decode_phase_code .smMeasure
  | .smGap, _, _, rfl => decode_phase_code .smGap
  | .validate, _, _, rfl => decode_phase_code .validate
  | .done, _, _, rfl => decode_phase_code .done
  | .failed, _, _, rfl => decode_phase_code .failed
  | .short d, _, hw, rfl => (isPulse_short d).decode_eq hw
  | .zero d, _, hw, rfl => (isPulse_zero d).decode_eq hw
  | .ambiguous d, _, hw, rfl => (isPulse_ambiguous d).decode_eq hw
  | .one d, _, hw, rfl => (isPulse_one d).decode_eq hw
  | .overlong d, _, hw, rfl => (isPulse_overlong d).decode_eq hw
  | .frame h s m c, _, _, rfl => decode_frameWord h s m c
  | .classify, _, _, h => nomatch h
  | .shiftIn _, _, _, h => nomatch h
  | .checksum, _, _, h => nomatch h
  | .convHum, _, _, h => nomatch h
  | .convTemp, _, _, h => nomatch h
  | .setdirIn, _, _, rfl => decode_lineop_code .setdirIn
  | .setdirOut, _, _, rfl => decode_lineop_code .setdirOut
  | .writeLow, _, _, rfl => decode_lineop_code .writeLow
  | .writeHigh, _, _, rfl => decode_lineop_code .writeHigh
  | .readLevel, _, _, rfl => decode_lineop_code .readLevel
  | .fail k, _, _, rfl => decode_fail_code k
  | .failNoResponse, _, _, rfl => decode_fail_code .noResponse
  | .failProtocolViolation, _, _, rfl => decode_fail_code .protocolViolation
  | .failTimeout, _, _, rfl => decode_fail_code .timeout
  | .failMeasurement, _, _, rfl => decode_fail_code .measurement
  | .failChecksumError, _, _, rfl => decode_fail_code .checksumError

/-- Settles O58: no code of the format's type is one of these words. -/
theorem unusedCodesAreRejected : Obligations.UnusedCodesAreRejected := by
  refine ⟨fun w h1 h2 => ?_, fun w h1 h2 => ?_, fun w h1 h2 => ?_, rfl, rfl⟩ <;> interval_cases w <;> rfl

/-- Settles O59, each word by what its format's words are read as. -/
theorem wordsOfEachFormatDecode : Obligations.WordsOfEachFormatDecode :=
  ⟨decode_cmd_eq_ok.2 ⟨false, true, rfl, rfl⟩, decode_cmd_eq_ok.2 ⟨true, true, rfl, rfl⟩,
    decode_phase_eq_ok.2 ⟨.smMeasure, rfl, rfl⟩, decode_phase_eq_ok.2 ⟨.validate, rfl, rfl⟩,
    decode_pulse_eq_ok.2 ⟨by decide, rfl⟩, decode_pulse_eq_ok.2 ⟨by decide, rfl⟩,
    decode_pulse_eq_ok.2 ⟨by decide, rfl⟩, decode_fail_eq_ok.2 ⟨.checksumError, rfl, rfl⟩,
    decode_lineop_eq_ok.2 ⟨.writeHigh, rfl, rfl⟩, decode_frame_eq_ok.2 ⟨by decide, rfl⟩⟩

end Sys2Proof
end

section
/-! PROOFS. The operations that the words of the encoding stand for: the command and the phase that a step runs,
the pulse symbols and their deciding tick (R73, R123), and a transmission's fields (R71, R72). -/

namespace Sys2Proof.Machine

/-! ### The step and `NOP` (R78, R180) -/

/-- Settles O6: a step runs the command of `rst ++ start`, and `NOP` the operation of `PH`. -/
theorem stepRunsTheDecodedOperation : Obligations.StepRunsTheDecodedOperation := by
  intro s i
  refine ⟨fun h => ⟨(encodeGivesBackTheWord _ _ _ h).1, ?_⟩, fun h => ⟨(encodeGivesBackTheWord _ _ _ h).1, ?_⟩,
    sameRegisters.refl s, upcoming_endTick s⟩
  · rw [decode_cmdWord, Except.ok.injEq] at h
    exact h ▸ step_eq_afterTick s
  · rw [decode_phase_code, Except.ok.injEq] at h
    exact h ▸ execNop_eq_phase s

theorem execNop_of_not_busy {s : State} (h : busy s = false) : execNop s = .next s := by
  rcases busy_eq_false_iff.1 h with hp | hp | hp <;> simp only [execNop, hp] <;> rfl

theorem Invariant.underway {s : State} (h : Invariant s) (hb : busy s = true) : Underway s :=
  ⟨h.conforming, hb, h.driven, h.holdsItsBits.most, h.timer⟩

theorem Invariant.execNop_answers {s : State} (h : Invariant s) : ∃ t, execNop s = .next t := by
  cases hb : busy s with
  | false => exact ⟨s, execNop_of_not_busy hb⟩
  | true => exact (h.underway hb).execNop_answers

/-- Settles O51: the rule of the phase has a next state, and it is what `NOP` executes. -/
theorem nopRunsThePhaseRule : Obligations.NopRunsThePhaseRule := by
  intro s h
  obtain ⟨t, ht⟩ := h.execNop_answers
  exact ⟨t, ht, (execNop_eq_phase s).symm.trans ht⟩

/-! ### The bands of a pulse's duration (R126, R125) -/

section
variable {c : Params} {d : Nat} (h : c.Conforming)
include h

theorem classify_eq_bands :
    classify c d =
      if 26 ≤ d ∧ d ≤ 28 then .zero else if 70 ≤ d ∧ d ≤ 100000 then .one
      else if d ≤ 100000 then .error else .timedOut := by
  rw [h.1]
  rfl

theorem classify_eq_zero (hd : 26 ≤ d ∧ d ≤ 28) : classify c d = .zero := by
  rw [classify_eq_bands h, if_pos hd]

theorem classify_eq_one (hd : 70 ≤ d ∧ d ≤ 100000) : classify c d = .one := by
  rw [classify_eq_bands h, if_neg (by omega), if_pos hd]

theorem classify_eq_error (hd : d ≤ 25 ∨ 29 ≤ d ∧ d ≤ 69) : classify c d = .error := by
  rw [classify_eq_bands h, if_neg (by omega), if_neg (by omega), if_pos (by omega)]

theorem classify_eq_timedOut (hd : 100000 < d) : classify c d = .timedOut := by
  rw [classify_eq_bands h, if_neg (by omega), if_neg (by omega), if_neg (by omega)]

end

/-! ### The pulse symbols (R73) -/

theorem shiftByte_eq_ofNat (v : Byte) (b : Bool) :
    shiftByte v b = BitVec.ofNat 8 ((2 * v.toNat + bitNat b) % 256) := by
  rw [← shiftByte_toNat, BitVec.ofNat_toNat, BitVec.setWidth_eq]

/-- A Bit Sample that is a bit, with room for it in the frame (R123, R151). -/
theorem consumeSample_bit {s : State} {v : Byte} (b : Bool) (hv : s.f.get? (frameIndex s) = some v) :
    consumeSample (if b then .one else .zero) s = .next
      { s with
        f := s.f.set (frameIndex s) (BitVec.ofNat 8 ((2 * v.toNat + bitNat b) % 256)),
        bitcnt := s.bitcnt + 1, tmr := 0, ph := .smGap } := by
  rw [← shiftByte_eq_ofNat]
  cases b <;> simp only [consumeSample, shiftBit_of_room _ hv] <;> rfl

/-- Settles O22: the range of the duration gives the symbol and the class of the pulse, and the class gives what
it does. -/
theorem pulseSymbolsActByWidth : Obligations.PulseSymbolsActByWidth := by
  intro s d hconf hbits
  obtain ⟨v, hv⟩ := Frame.get?_of_lt s.f (frameIndex_lt (s := s) (by omega))
  have hexec : ∀ {i o}, IsPulse i d → classify s.cfg d = o → exec i s = consumeSample o s :=
    fun hi ho => by rw [exec_pulse s hi, ho]
  refine ⟨fun hd => ?_, fun hd => ?_, fun hd => ?_, v, hv, fun hd => ?_, fun hd => ?_⟩
  · exact ⟨(isPulse_short d).decode_eq (wellFormed_short.2 hd),
      hexec (isPulse_short d) (classify_eq_error hconf (.inl hd.2))⟩
  · exact ⟨(isPulse_ambiguous d).decode_eq (wellFormed_ambiguous.2 hd),
      hexec (isPulse_ambiguous d) (classify_eq_error hconf (.inr hd))⟩
  · exact ⟨(isPulse_overlong d).decode_eq (wellFormed_overlong.2 hd),
      hexec (isPulse_overlong d) (classify_eq_timedOut hconf hd)⟩
  · exact ⟨(isPulse_zero d).decode_eq (wellFormed_zero.2 hd),
      (hexec (isPulse_zero d) (classify_eq_zero hconf hd)).trans (consumeSample_bit false hv)⟩
  · exact ⟨(isPulse_one d).decode_eq (wellFormed_one.2 hd),
      (hexec (isPulse_one d) (classify_eq_one hconf hd)).trans (consumeSample_bit true hv)⟩

/-! ### The tick that decides on a pulse (R123, R125) -/

/-- `SM_MEASURE` at the fall: the pulse has the duration counted. -/
theorem exec_smMeasure_of_low {s : State} (ho : s.lineOe = false) (hl : lineIn s = false) :
    exec .smMeasure s = consumeSample (classify s.cfg (elapsed s)) s :=
  boundedWait_satisfied ho hl

/-- `SM_MEASURE` at the last permitted sample, with the line still high. -/
theorem exec_smMeasure_of_expired {s : State} (ho : s.lineOe = false) (hl : lineIn s = true)
    (he : elapsed s = s.cfg.tTimeout) : exec .smMeasure s = consumeSample .timedOut s :=
  boundedWait_expired ho (by simp [hl]) he

@[simp] theorem presentPulse_cfg (d : Nat) (s : State) : (presentPulse d s).cfg = s.cfg := by
  unfold presentPulse; split <;> rfl

@[simp] theorem presentPulse_lineOe (d : Nat) (s : State) : (presentPulse d s).lineOe = s.lineOe := by
  unfold presentPulse; split <;> rfl

theorem lineIn_presentPulse (d : Nat) (s : State) :
    lineIn (presentPulse d s) = decide (s.cfg.tTimeout < d) := by
  unfold presentPulse
  split
  · next h => exact (decide_eq_false (Nat.not_lt.2 h)).symm
  · next h => exact (decide_eq_true (Nat.not_le.1 h)).symm

theorem elapsed_presentPulse {d : Nat} {s : State} (h : s.cfg.Conforming) (hd : 1 ≤ d) :
    elapsed (presentPulse d s) = min d s.cfg.tTimeout := by
  obtain ⟨-, -, ht, -⟩ := conforming_values h
  unfold elapsed presentPulse
  split <;> simp only [BitVec.toNat_ofNat] <;> omega

/-- The deciding tick makes no command, so it runs the rule of `SM_MEASURE`. -/
theorem step_presentPulse (d : Nat) (s : State) :
    step (presentPulse d s) = afterTick (exec .smMeasure (presentPulse d s)) := by
  unfold presentPulse; split <;> rfl

theorem exec_smMeasure_presentPulse {s : State} {d : Nat} (hconf : s.cfg.Conforming)
    (ho : s.lineOe = false) (hd : 1 ≤ d) :
    exec .smMeasure (presentPulse d s) = exec (pulseSymbol d) (presentPulse d s) := by
  obtain ⟨-, -, ht, -⟩ := conforming_values hconf
  have ho' : (presentPulse d s).lineOe = false := by rw [presentPulse_lineOe, ho]
  have helapsed := elapsed_presentPulse hconf hd
  have hlevel := lineIn_presentPulse d s
  rw [exec_pulse _ (pulseSymbol_isPulse d), presentPulse_cfg]
  rcases Nat.lt_or_ge s.cfg.tTimeout d with hlong | hle
  · rw [decide_eq_true hlong] at hlevel
    rw [Nat.min_eq_right hlong.le] at helapsed
    rw [classify_eq_timedOut hconf (by omega), exec_smMeasure_of_expired ho' hlevel (by simpa using helapsed)]
  · rw [decide_eq_false (Nat.not_lt.2 hle)] at hlevel
    rw [exec_smMeasure_of_low ho' hlevel, helapsed, Nat.min_eq_left hle, presentPulse_cfg]

/-- Settles O23: the deciding tick is a tick of `SM_MEASURE`, and it takes the pulse to be of its own duration. -/
theorem pulseIsItsDecidingTick : Obligations.PulseIsItsDecidingTick := by
  intro s d hconf ho hd
  have h := exec_smMeasure_presentPulse hconf ho hd
  exact ⟨h, by rw [step_presentPulse, h]⟩

/-! ### The fields of a frame as numbers (R72, R153, R167) -/

theorem Frame.humidity_toNat (f : Frame) : f.humidity.toNat = 256 * f.f0.toNat + f.f1.toNat := by
  have h0 := f.f0.isLt
  have h1 := f.f1.isLt
  have hor := Nat.shiftLeft_add_eq_or_of_lt h1 f.f0.toNat
  simp only [Nat.shiftLeft_eq] at hor
  simp (disch := omega) only [Frame.humidity, BitVec.toNat_or, BitVec.toNat_shiftLeft, BitVec.toNat_setWidth,
    Nat.shiftLeft_eq, Nat.mod_eq_of_lt, ← hor]
  omega

theorem Frame.magnitude_toNat (f : Frame) :
    f.magnitude.toNat = 256 * (f.f2.toNat % 128) + f.f3.toNat := by
  have h3 := f.f3.isLt
  have hmask : f.f2.toNat &&& 127 = f.f2.toNat % 128 := Nat.and_two_pow_sub_one_eq_mod _ 7
  have hor := Nat.shiftLeft_add_eq_or_of_lt h3 (f.f2.toNat % 128)
  simp only [Nat.shiftLeft_eq] at hor
  simp (disch := omega) only [Frame.magnitude, BitVec.toNat_or, BitVec.toNat_shiftLeft, BitVec.toNat_setWidth,
    BitVec.toNat_and, BitVec.toNat_ofNat, Nat.reducePow, hmask,
    Nat.shiftLeft_eq, Nat.mod_eq_of_lt, ← hor]
  omega

theorem Frame.negative_eq (f : Frame) : f.negative = decide (128 ≤ f.f2.toNat) := by
  rw [Frame.negative, ← BitVec.msb_eq_getLsbD_last, BitVec.msb_eq_decide]

theorem convTemp_toInt (f : Frame) : (convTemp f).toInt = signedTenths f := by
  have hm := f.magnitude.isLt
  rw [convTemp, BitVec.toInt_ofInt]
  unfold signedTenths
  split <;> rw [Int.bmod_eq_of_le] <;> omega

theorem checksumOk_eq_true {f : Frame} :
    checksumOk f = true ↔
      (f.f0.toNat + f.f1.toNat + f.f2.toNat + f.f3.toNat) % 256 = f.f4.toNat :=
  beq_iff_eq

/-! ### A transmission with given fields (R71) -/

section
variable (h : BitVec 16) (sign : Bool) (m : BitVec 15) (c : Byte)

theorem ofFields_f0_toNat : (Frame.ofFields h sign m c).f0.toNat = h.toNat / 256 := by
  have := h.isLt
  simp only [Frame.ofFields, BitVec.extractLsb'_toNat, Nat.shiftRight_eq_div_pow]
  omega

theorem ofFields_f1_toNat : (Frame.ofFields h sign m c).f1.toNat = h.toNat % 256 := by
  simp only [Frame.ofFields, BitVec.extractLsb'_toNat, Nat.shiftRight_zero, Nat.reducePow]

theorem ofFields_f2_toNat :
    (Frame.ofFields h sign m c).f2.toNat = 128 * bitNat sign + m.toNat / 256 := by
  have hlow : (m.extractLsb' 8 7).toNat = m.toNat / 256 := by
    have := m.isLt
    rw [BitVec.extractLsb'_toNat, Nat.shiftRight_eq_div_pow]
    omega
  have hsign : (BitVec.ofBool sign).toNat = bitNat sign := by cases sign <;> rfl
  simp only [Frame.ofFields, BitVec.toNat_append]
  rw [← Nat.shiftLeft_add_eq_or_of_lt (BitVec.isLt _), hsign, hlow, Nat.shiftLeft_eq, Nat.mul_comm]

theorem ofFields_f3_toNat : (Frame.ofFields h sign m c).f3.toNat = m.toNat % 256 := by
  simp only [Frame.ofFields, BitVec.extractLsb'_toNat, Nat.shiftRight_zero, Nat.reducePow]

theorem ofFields_humidity : (Frame.ofFields h sign m c).humidity = h := by
  apply BitVec.eq_of_toNat_eq
  rw [Frame.humidity_toNat, ofFields_f0_toNat, ofFields_f1_toNat, Nat.div_add_mod]

theorem ofFields_signedTenths :
    signedTenths (Frame.ofFields h sign m c) = if sign then -(m.toNat : Int) else m.toNat := by
  have hm := m.isLt
  have hneg : (Frame.ofFields h sign m c).negative = sign := by
    rw [Frame.negative_eq, ofFields_f2_toNat]
    cases sign <;> simp [bitNat]
    omega
  have hmag : (Frame.ofFields h sign m c).magnitude.toNat = m.toNat := by
    rw [Frame.magnitude_toNat, ofFields_f2_toNat, ofFields_f3_toNat]
    omega
  rw [signedTenths, hneg, hmag]

theorem ofFields_checksumOk :
    checksumOk (Frame.ofFields h sign m c) = true ↔
      (h.toNat / 256 + h.toNat % 256 + (128 * bitNat sign + m.toNat / 256) + m.toNat % 256) % 256 =
        c.toNat := by
  rw [checksumOk_eq_true, ofFields_f0_toNat, ofFields_f1_toNat, ofFields_f2_toNat, ofFields_f3_toNat]
  rfl

end

/-- Settles O37: the frame of the fields has their checksum, their humidity and their signed temperature. -/
theorem frameFieldsDecideTheReading : Obligations.FrameFieldsDecideTheReading := by
  intro s h sign m c
  refine ⟨fun hsum => ⟨convTemp (Frame.ofFields h sign m c), ?_, ?_⟩, fun hsum => ?_⟩
  · rw [convTemp_toInt, ofFields_signedTenths]
  · refine validateFrame_eq_next.2 (.inl ⟨(ofFields_checksumOk h sign m c).2 hsum, ?_⟩)
    rw [convHum, ofFields_humidity]
    rfl
  · rw [Ne, ← ofFields_checksumOk, Bool.not_eq_true] at hsum
    exact validateFrame_eq_next.2 (.inr ⟨hsum, rfl⟩)

end Sys2Proof.Machine
end

section
/-! PROOFS. What the registers hold after a number of ticks without a command: the run of a phase that counts its
ticks, and from it the holds (R101, R102, R128) and the bounded waits (R120), from their first tick to their last. -/

namespace Sys2Proof.Machine

/-! ### The registers after a run -/

/-- The registers and the configuration of `r`, in the environment of `e`. -/
def inEnvironment (e r : State) : State := { r with inputs := e.inputs, tick := e.tick, value := e.value }

theorem sameRegisters_inEnvironment (e r : State) : sameRegisters (inEnvironment e r) r := sameRegisters.refl r

theorem sameRegisters.eq_inEnvironment {s r : State} (h : sameRegisters s r) : s = inEnvironment s r := by
  cases s
  cases r
  obtain ⟨rfl, rfl, rfl, rfl, rfl, rfl, rfl, rfl, rfl, rfl⟩ := h
  rfl

/-- After `n` ticks from `s` the registers and the configuration are those of `r`. -/
def RegistersAfter (n : Nat) (s r : State) : Prop := ∃ t, RunsTo n s t ∧ sameRegisters t r

theorem RegistersAfter.zero (s : State) : RegistersAfter 0 s s := ⟨s, runsTo_zero.2 rfl, .refl s⟩

/-- A tick without a command runs the rule of the phase (R180). -/
theorem step_of_quiet {s u : State} (hq : QuietFor 1 s) (h : exec s.ph.instr s = .next u) :
    step s = .next (endTick u) := by
  obtain ⟨hr, hs⟩ := hq 0 Nat.one_pos
  exact step_eq_next.2 ⟨u, by rw [fetch_of_quiet hr hs, execNop_eq_phase, h], rfl⟩

/-- One more tick, by what the rule of the phase does at the sample of that tick. -/
theorem RegistersAfter.tick {n : Nat} {s r r' : State} (h : RegistersAfter n s r) (hq : QuietFor (n + 1) s)
    (hexec : ∀ e, lineIn e = (upcoming s n).lineIn →
      exec r.ph.instr (inEnvironment e r) = .next (inEnvironment e r')) :
    RegistersAfter (n + 1) s r' := by
  obtain ⟨t, hrun, hsame⟩ := h
  have hexec_t : exec t.ph.instr t = .next (inEnvironment t r') := by
    have hline : lineIn t = (upcoming s n).lineIn := congrArg Inputs.lineIn (upcoming_runsTo hrun 0)
    rw [hsame.eq_inEnvironment]
    exact hexec t hline
  exact ⟨_, runsTo_add.2 ⟨t, hrun, runsTo_one.2 (step_of_quiet (hq.runsTo hrun) hexec_t)⟩,
    sameRegisters_inEnvironment t r'⟩

/-! ### A phase that counts -/

/-- `r` with `k` in `TMR`. -/
def countedTo (k : Nat) (r : State) : State := { r with tmr := BitVec.ofNat 17 k }

theorem countedTo_zero {r : State} (h : r.tmr = 0) : countedTo 0 r = r := by
  cases r
  cases h
  rfl

theorem countTick_countedTo (k : Nat) (r : State) : countTick (countedTo k r) = countedTo (k + 1) r := by
  simp only [countTick, countedTo, BitVec.ofNat_add]
  rfl

theorem elapsed_countedTo {k : Nat} (e r : State) (h : k ≤ 100000) :
    elapsed (inEnvironment e (countedTo k r)) = k + 1 := by
  simp only [elapsed, inEnvironment, countedTo, BitVec.toNat_ofNat]
  omega

/-- A phase that only counts at each of `n` ticks has `n` in `TMR` after them, and nothing else changed. -/
theorem RegistersAfter.count {m n : Nat} {s r : State} (h : RegistersAfter m s r) (hz : r.tmr = 0)
    (hq : QuietFor (m + n) s)
    (hcount : ∀ k, k < n → ∀ e, lineIn e = (upcoming s (m + k)).lineIn →
      exec r.ph.instr (inEnvironment e (countedTo k r)) =
        .next (countTick (inEnvironment e (countedTo k r)))) :
    RegistersAfter (m + n) s (countedTo n r) := by
  induction n with
  | zero => rwa [countedTo_zero hz]
  | succ n ih =>
    have hn := ih (hq.mono (by omega)) fun k hk => hcount k (by omega)
    refine hn.tick hq fun e he => ?_
    rw [← countTick_countedTo]
    exact hcount n (Nat.lt_succ_self n) e he

/-! ### The holds (R101, R102, R128) -/

/-- The phases that hold for a fixed number of ticks. -/
abbrev Holds (p : Phase) : Prop := p = .hsLow ∨ p = .hsRel ∨ p = .smGap

theorem exec_hold_counts {s : State} {p : Phase} (hp : Holds p) (he : elapsed s ≠ tmrBound s.cfg p) :
    exec p.instr s = .next (countTick s) := by
  rcases hp with rfl | rfl | rfl
  · exact execHsLow_eq_next.2 (.inr ⟨he, rfl⟩)
  · exact execHsRel_eq_next.2 (.inr ⟨he, rfl⟩)
  · exact execSmGap_eq_next.2 (.inr ⟨he, rfl⟩)

/-- Before its last tick a hold only counts, whatever the line does. -/
theorem RegistersAfter.hold_counts {m n : Nat} {s r : State} (h : RegistersAfter m s r) (hz : r.tmr = 0)
    (hconf : r.cfg.Conforming) (hp : Holds r.ph) (hq : QuietFor (m + n) s) (hn : n < tmrBound r.cfg r.ph) :
    RegistersAfter (m + n) s (countedTo n r) := by
  have hmax := tmrBound_le hconf r.ph
  refine h.count hz hq fun k hk e _ => ?_
  refine exec_hold_counts (s := inEnvironment e (countedTo k r)) hp ?_
  rw [elapsed_countedTo e r (by omega)]
  exact Nat.ne_of_lt (lt_of_le_of_lt hk hn)

/-- A hold ends after exactly its number of ticks, as the rule of its phase does at its last tick. -/
theorem RegistersAfter.hold_ends {m b : Nat} {s r r' : State} (h : RegistersAfter m s r) (hz : r.tmr = 0)
    (hconf : r.cfg.Conforming) (hp : Holds r.ph) (hb : tmrBound r.cfg r.ph = b) (hq : QuietFor (m + b) s)
    (hlast : ∀ e k, elapsed (inEnvironment e (countedTo k r)) = b →
      exec r.ph.instr (inEnvironment e (countedTo k r)) = .next (inEnvironment e r')) :
    RegistersAfter (m + b) s r' := by
  have hmax := tmrBound_le hconf r.ph
  obtain ⟨n, rfl⟩ := Nat.exists_eq_add_one.2 (hb ▸ tmrBound_pos hconf r.ph)
  refine (h.hold_counts hz hconf hp (hq.mono (by omega)) (by omega)).tick hq fun e _ => ?_
  exact hlast e n (elapsed_countedTo e r (by omega))

/-! ### The bounded waits (R120) -/

/-- `r` is at the first tick of a bounded wait for the level `w`, with bound `b` and failure `kind`. -/
structure WaitBegins (w : Level) (b : Nat) (kind : FailKind) (r : State) : Prop where
  conforming : r.cfg.Conforming
  wait : waitOf r.cfg r.ph = some (w, b, kind)
  input : r.lineOe = false
  first : r.tmr = 0

theorem eq_tmrBound_of_waitOf {c : Params} {p : Phase} {w : Level} {b : Nat} {kind : FailKind}
    (h : waitOf c p = some (w, b, kind)) : b = tmrBound c p := by
  cases p with
  | hsAck1 | hsAck2 | smWaitLow | smWaitHigh | smMeasure => cases h; rfl
  | _ => cases h

theorem readsLine_of_waitOf {c : Params} {p : Phase} {x : Level × Nat × FailKind} (h : waitOf c p = some x) :
    readsLine p = true := by
  cases p with
  | hsAck1 | hsAck2 | smWaitLow | smWaitHigh | smMeasure => rfl
  | _ => cases h

theorem Invariant.waitBegins {s : State} {w : Level} {b : Nat} {kind : FailKind} (h : Invariant s)
    (hw : waitOf s.cfg s.ph = some (w, b, kind)) (hz : s.tmr = 0) : WaitBegins w b kind s :=
  ⟨h.conforming, hw, h.readable (readsLine_of_waitOf hw), hz⟩

theorem WaitBegins.bound_pos {w : Level} {b : Nat} {kind : FailKind} {r : State} (h : WaitBegins w b kind r) :
    0 < b := eq_tmrBound_of_waitOf h.wait ▸ tmrBound_pos h.conforming r.ph

theorem WaitBegins.bound_le {w : Level} {b : Nat} {kind : FailKind} {r : State} (h : WaitBegins w b kind r) :
    b ≤ 100000 := eq_tmrBound_of_waitOf h.wait ▸ tmrBound_le h.conforming r.ph

section
variable {s : State} {p : Phase} {w : Level} {b : Nat} {kind : FailKind}

/-- A phase that waits is the bounded wait that `waitOf` names, and leads to the phase that `afterWait` names. -/
theorem exec_eq_boundedWait (hw : waitOf s.cfg p = some (w, b, kind)) :
    ∃ k, exec p.instr s = boundedWait w b kind k s ∧
      ∀ q, afterWait p = some q → k s = .next (enterPhase q s) := by
  cases p with
  | hsAck1 | hsAck2 | smWaitLow | smWaitHigh =>
    cases hw
    exact ⟨_, rfl, fun q hnext => by cases hnext; rfl⟩
  | smMeasure =>
    cases hw
    exact ⟨_, rfl, fun q hnext => by cases hnext⟩
  | _ => cases hw

theorem exec_wait_satisfied {q : Phase} (hw : waitOf s.cfg p = some (w, b, kind)) (hq : afterWait p = some q)
    (ho : s.lineOe = false) (hl : lineIn s = w) : exec p.instr s = .next (enterPhase q s) := by
  obtain ⟨k, hexec, hnext⟩ := exec_eq_boundedWait hw
  rw [hexec, boundedWait_satisfied ho hl, hnext q hq]

theorem exec_wait_expired (hw : waitOf s.cfg p = some (w, b, kind)) (ho : s.lineOe = false)
    (hl : lineIn s = !w) (he : elapsed s = b) : exec p.instr s = .next (raiseFail kind s) := by
  obtain ⟨k, hexec, -⟩ := exec_eq_boundedWait hw
  rw [hexec, boundedWait_expired ho (boolLevel_ne.2 hl) he]

theorem exec_wait_counts (hw : waitOf s.cfg p = some (w, b, kind)) (ho : s.lineOe = false)
    (hl : lineIn s = !w) (he : elapsed s ≠ b) : exec p.instr s = .next (countTick s) := by
  obtain ⟨k, hexec, -⟩ := exec_eq_boundedWait hw
  rw [hexec, boundedWait_count ho (boolLevel_ne.2 hl) he]

end

section
variable {m n b : Nat} {w : Level} {kind : FailKind} {s r : State} (h : RegistersAfter m s r)
  (hw : WaitBegins w b kind r)
include h hw

/-- While the line reads the other level, a wait only counts before its last permitted sample. -/
theorem RegistersAfter.wait_counts (hq : QuietFor (m + n) s) (hn : n < b)
    (hline : ∀ k, k < n → (upcoming s (m + k)).lineIn = !w) : RegistersAfter (m + n) s (countedTo n r) := by
  have hmax := hw.bound_le
  refine h.count hw.first hq fun k hk e he => ?_
  refine exec_wait_counts (s := inEnvironment e (countedTo k r)) hw.wait hw.input (he.trans (hline k hk)) ?_
  rw [elapsed_countedTo e r (by omega)]
  omega

/-- A wait is left at the first sample that reads its level, if that is a permitted one. -/
theorem RegistersAfter.wait_satisfied {p : Phase} (hp : afterWait r.ph = some p) (hq : QuietFor (m + n + 1) s)
    (hn : n < b) (hline : ∀ k, k < n → (upcoming s (m + k)).lineIn = !w)
    (hlast : (upcoming s (m + n)).lineIn = w) : RegistersAfter (m + n + 1) s (enterPhase p r) := by
  refine (h.wait_counts hw (hq.mono (by omega)) hn hline).tick hq fun e he => ?_
  exact exec_wait_satisfied (s := inEnvironment e (countedTo n r)) hw.wait hp hw.input (he.trans hlast)

/-- A wait fails at its last permitted sample, if none of its samples reads its level. -/
theorem RegistersAfter.wait_expires (hq : QuietFor (m + b) s)
    (hline : ∀ k, k < b → (upcoming s (m + k)).lineIn = !w) : RegistersAfter (m + b) s (raiseFail kind r) := by
  have hmax := hw.bound_le
  obtain ⟨n, rfl⟩ := Nat.exists_eq_add_one.2 hw.bound_pos
  have hcounted := h.wait_counts hw (n := n) (hq.mono (by omega)) (by omega) fun k hk => hline k (by omega)
  refine hcounted.tick hq fun e he => ?_
  exact exec_wait_expired (s := inEnvironment e (countedTo n r)) hw.wait hw.input
    (he.trans (hline n (Nat.lt_succ_self n))) (elapsed_countedTo e r (by omega))

end

end Sys2Proof.Machine
end

section
/-! PROOFS. The handshake (R101 to R105): the arms of its four phases, the length of its holds, its outcomes, and
the line in `Input` mode from the switch onward. -/

namespace Sys2Proof.Machine

/-! ### The arms of the phases (R101 to R104) -/

/-- Settles O8: a hold whose last tick writes the line high, which `Output` mode permits. -/
theorem hsLowHoldsTheLineLow : Obligations.HsLowHoldsTheLineLow := fun _ =>
  ⟨fun he ho => execHsLow_eq_next.2 (.inl ⟨he, ho, rfl⟩), fun he => execHsLow_eq_next.2 (.inr ⟨he, rfl⟩)⟩

/-- Settles O9: a hold whose last tick switches the line to `Input` mode. -/
theorem hsRelHoldsTheLineHigh : Obligations.HsRelHoldsTheLineHigh := fun _ =>
  ⟨fun he => execHsRel_eq_next.2 (.inl ⟨he, rfl⟩), fun he => execHsRel_eq_next.2 (.inr ⟨he, rfl⟩)⟩

/-- Settles O10: the bounded wait for low. -/
theorem hsAck1WaitsForLow : Obligations.HsAck1WaitsForLow := fun _ ho =>
  ⟨exec_wait_satisfied (p := .hsAck1) rfl rfl ho, exec_wait_expired (p := .hsAck1) rfl ho,
    exec_wait_counts (p := .hsAck1) rfl ho⟩

/-- Settles O11: the bounded wait for high. -/
theorem hsAck2WaitsForHigh : Obligations.HsAck2WaitsForHigh := fun _ ho =>
  ⟨exec_wait_satisfied (p := .hsAck2) rfl rfl ho, exec_wait_expired (p := .hsAck2) rfl ho,
    exec_wait_counts (p := .hsAck2) rfl ho⟩

/-! ### The length of the holds (R277) -/

section
variable {m : Nat} {s r : State} (h : RegistersAfter m s r) (hz : r.tmr = 0) (hconf : r.cfg.Conforming)
include h hz hconf

theorem RegistersAfter.hsLow_ends (hp : r.ph = .hsLow) (ho : r.lineOe = true) (hq : QuietFor (m + r.cfg.tWake) s) :
    RegistersAfter (m + r.cfg.tWake) s (enterPhase .hsRel { r with lineOut := true }) := by
  refine h.hold_ends hz hconf (.inl hp) (by rw [hp]; rfl) hq fun e k he => ?_
  rw [hp]
  exact execHsLow_eq_next.2 (.inl ⟨he, ho, rfl⟩)

theorem RegistersAfter.hsRel_ends (hp : r.ph = .hsRel) (hq : QuietFor (m + r.cfg.tRelease) s) :
    RegistersAfter (m + r.cfg.tRelease) s (enterPhase .hsAck1 (lineDir .input r)) := by
  refine h.hold_ends hz hconf (.inr (.inl hp)) (by rw [hp]; rfl) hq fun e k he => ?_
  rw [hp]
  exact execHsRel_eq_next.2 (.inl ⟨he, rfl⟩)

theorem RegistersAfter.smGap_ends (hp : r.ph = .smGap) (hq : QuietFor (m + r.cfg.tGap) s) :
    RegistersAfter (m + r.cfg.tGap) s
      (enterPhase (if r.bitcnt.toNat = r.cfg.nBits then .validate else .smWaitLow) r) := by
  refine h.hold_ends hz hconf (.inr (.inr hp)) (by rw [hp]; rfl) hq fun e k he => ?_
  rw [hp]
  exact execSmGap_eq_next.2 (.inl ⟨he, rfl⟩)

end

/-- At the first tick of a phase `TMR` is 0 already, so a change of phase writes `PH` only. -/
theorem enterPhase_of_first {p : Phase} {s : State} (h : s.tmr = 0) : enterPhase p s = { s with ph := p } := by
  cases s
  cases h
  rfl

/-- Settles O12: a hold counts up to its last tick, and each of the three ends as its rule says. -/
theorem holdsLastExactly : Obligations.HoldsLastExactly := by
  intro s h hz hp hq
  have hstart := RegistersAfter.zero s
  refine ⟨fun k hk => ?_, ?_⟩
  · have hcounted := hstart.hold_counts (n := k) hz h.conforming hp (hq.mono (by omega)) hk
    rwa [Nat.zero_add] at hcounted
  · rw [← Nat.zero_add (tmrBound s.cfg s.ph)] at hq ⊢
    rcases hp with hp | hp | hp <;> simp only [hp] at hq ⊢
    · obtain ⟨t, hrun, hsame⟩ := hstart.hsLow_ends hz h.conforming hp (h.driven.2 (.inl hp)) hq
      rw [enterPhase_of_first (s := { s with lineOut := true }) hz] at hsame
      exact ⟨t, hrun, fun _ => hsame, by simp, by simp, by simp⟩
    · obtain ⟨t, hrun, hsame⟩ := hstart.hsRel_ends hz h.conforming hp hq
      rw [enterPhase_of_first (s := lineDir .input s) hz] at hsame
      exact ⟨t, hrun, by simp, fun _ => hsame, by simp, by simp⟩
    · obtain ⟨t, hrun, hsame⟩ := hstart.smGap_ends hz h.conforming hp hq
      obtain ⟨-, -, -, -, -, -, -, hn, -, -⟩ := conforming_values h.conforming
      rw [enterPhase_of_first hz, hn] at hsame
      refine ⟨t, hrun, by simp, by simp, fun _ hb => ?_, fun _ hb => ?_⟩
      · rwa [if_pos hb] at hsame
      · rwa [if_neg hb.ne] at hsame

/-! ### The line in `Input` mode (R105) -/

/-- With the line released, a tick without a command keeps it released: only an accepted `DECODE` drives it. -/
theorem Invariant.step_keeps_input {s : State} (h : Invariant s) (ho : s.lineOe = false) (hq : QuietFor 1 s) :
    ∃ t, step s = .next t ∧ Invariant t ∧ t.lineOe = false := by
  obtain ⟨u, hu⟩ := h.execNop_answers
  have hstep : step s = .next (endTick u) := step_of_quiet hq ((execNop_eq_phase s).symm.trans hu)
  have hp : s.ph ≠ .hsRel := fun hp => by simp [h.driven.2 (.inr hp)] at ho
  exact ⟨_, hstep, everyTickKeepsTheInvariant s _ h hstep, ((execNop_phaseFrame hu).lineOe hp).trans ho⟩

theorem Invariant.runsTo_keeps_input {n : Nat} {s : State} (h : Invariant s) (ho : s.lineOe = false)
    (hq : QuietFor n s) : ∃ t, RunsTo n s t ∧ t.lineOe = false := by
  induction n generalizing s with
  | zero => exact ⟨s, runsTo_zero.2 rfl, ho⟩
  | succ n ih =>
    obtain ⟨u, hstep, hinv, hou⟩ := h.step_keeps_input ho (hq.mono (by omega))
    rw [Nat.add_comm] at hq
    obtain ⟨t, hrun, hot⟩ := ih hinv hou (hq.runsTo (runsTo_one.2 hstep))
    exact ⟨t, runsTo_succ.2 ⟨u, hstep, hrun⟩, hot⟩

/-! ### The outcomes (R105) -/

/-- The wait that `HS_ACK1` leads to begins where its low sample was read. -/
theorem WaitBegins.hsAck2 {s : State} (h : WaitBegins false s.cfg.tAck .noResponse s) :
    WaitBegins true s.cfg.tAck .protocolViolation (enterPhase .hsAck2 s) :=
  ⟨h.conforming, rfl, h.input, rfl⟩

/-- Settles O15: the two bounded waits one after the other, each satisfied or expired. -/
theorem handshakeOutcome : Obligations.HandshakeOutcome := by
  intro s h hp hz hq
  have hwait : WaitBegins false s.cfg.tAck .noResponse s := h.waitBegins (by rw [hp]; rfl) hz
  have hstart := RegistersAfter.zero s
  refine ⟨fun n => h.runsTo_keeps_input hwait.input, fun hhigh => ?_, fun a ha hle hhigh hlow => ?_⟩
  · have hfailed := hstart.wait_expires hwait (hq.mono (by omega)) fun k hk => by
      rw [Nat.zero_add]; exact hhigh k hk
    rwa [Nat.zero_add] at hfailed
  · have hack : RegistersAfter a s (enterPhase .hsAck2 s) := by
      obtain ⟨j, rfl⟩ := Nat.exists_eq_add_one.2 ha
      have hack := hstart.wait_satisfied hwait (n := j) (p := .hsAck2) (by rw [hp]; rfl) (hq.mono (by omega))
        (by omega) (fun k hk => by rw [Nat.zero_add]; exact hhigh k hk) (by rw [Nat.zero_add]; exact hlow)
      rwa [Nat.zero_add] at hack
    refine ⟨fun hstays => ?_, fun b hb hble hstays hrise => ?_⟩
    · exact hack.wait_expires hwait.hsAck2 (hq.mono (by omega)) hstays
    · obtain ⟨j, rfl⟩ := Nat.exists_eq_add_one.2 hb
      rw [← enterPhase_of_first hz]
      exact hack.wait_satisfied hwait.hsAck2 (n := j) rfl (hq.mono (by omega)) (by omega) hstays hrise

end Sys2Proof.Machine
end

section
/-! PROOFS. The pulse sampler (R120 to R128): the arms of its phases, the length of its waits, and the duration
that it classifies. -/

namespace Sys2Proof.Machine

/-! ### The arms of the phases (R121 to R123, R128) -/

/-- Settles O17: the bounded wait for low. -/
theorem smWaitLowWaitsForLow : Obligations.SmWaitLowWaitsForLow := fun _ ho =>
  ⟨exec_wait_satisfied (p := .smWaitLow) rfl rfl ho, exec_wait_expired (p := .smWaitLow) rfl ho,
    exec_wait_counts (p := .smWaitLow) rfl ho⟩

/-- Settles O18: the bounded wait for high. -/
theorem smWaitHighWaitsForHigh : Obligations.SmWaitHighWaitsForHigh := fun _ ho =>
  ⟨exec_wait_satisfied (p := .smWaitHigh) rfl rfl ho, exec_wait_expired (p := .smWaitHigh) rfl ho,
    exec_wait_counts (p := .smWaitHigh) rfl ho⟩

/-- Settles O19: at the fall the sample is consumed by its class, and a high sample is one more of the wait. -/
theorem smMeasureTimesThePulse : Obligations.SmMeasureTimesThePulse := by
  intro s ho hbits
  refine ⟨fun b hl hc => ?_, fun hl hc => ?_, exec_wait_expired (p := .smMeasure) rfl ho,
    exec_wait_counts (p := .smMeasure) rfl ho⟩
  · obtain ⟨v, hv⟩ := Frame.get?_of_lt s.f (frameIndex_lt (s := s) (by omega))
    exact ⟨v, hv, by rw [exec_smMeasure_of_low ho hl, hc, consumeSample_bit b hv]; rfl⟩
  · rw [exec_smMeasure_of_low ho hl, hc]
    rfl

/-- Settles O20: past the bound a duration has the class of a pulse that is too long. -/
theorem smMeasurePastTheBound : Obligations.SmMeasurePastTheBound := by
  intro s hconf ho hl he
  obtain ⟨-, -, ht, -⟩ := conforming_values hconf
  rw [exec_smMeasure_of_low ho hl, classify_eq_timedOut hconf (ht ▸ he)]
  rfl

/-- Settles O25: a hold whose last tick goes by `BITCNT`. -/
theorem smGapHoldsAndLoops : Obligations.SmGapHoldsAndLoops := fun _ =>
  ⟨fun he hb => execSmGap_eq_next.2 (.inl ⟨he, by rw [if_pos hb]; rfl⟩),
    fun he hb => execSmGap_eq_next.2 (.inl ⟨he, by rw [if_neg hb]; rfl⟩),
    fun he => execSmGap_eq_next.2 (.inr ⟨he, rfl⟩)⟩

/-! ### The bands (R126) -/

/-- Settles O21: the three bands cover the permitted durations, and each has its own class. -/
theorem classifyFollowsTheBands : Obligations.ClassifyFollowsTheBands := by
  refine ⟨fun c e hconf _ hmax => ?_, fun _ => rfl⟩
  have hband : (26 ≤ e ∧ e ≤ 28) ∨ 70 ≤ e ∨ e ≤ 25 ∨ 29 ≤ e ∧ e ≤ 69 := by omega
  rcases hband with hzero | hone | herror
  · simp only [classify_eq_zero hconf hzero, reduceCtorEq, true_iff, false_iff]
    omega
  · simp only [classify_eq_one hconf ⟨hone, hmax⟩, reduceCtorEq, true_iff, false_iff]
    omega
  · simp only [classify_eq_error hconf herror, reduceCtorEq, true_iff, false_iff]
    omega

/-- The class of a pulse that is the bit `b` (R126). -/
def bitOutcome (b : Bool) : SampleOutcome := if b then .one else .zero

theorem classify_eq_bitOutcome {c : Params} {d : Nat} (h : c.Conforming) (hmax : d ≤ 100000)
    (hd : 26 ≤ d ∧ d ≤ 28 ∨ 70 ≤ d) : ∃ b, classify c d = bitOutcome b := by
  rcases hd with hd | hd
  · exact ⟨false, classify_eq_zero h hd⟩
  · exact ⟨true, classify_eq_one h ⟨hd, hmax⟩⟩

/-- A pulse that is a bit is neither empty nor longer than the bound. -/
theorem width_of_bitOutcome {c : Params} {d : Nat} {b : Bool} (h : c.Conforming)
    (hd : classify c d = bitOutcome b) : 1 ≤ d ∧ d ≤ c.tTimeout := by
  obtain ⟨-, -, ht, -⟩ := conforming_values h
  refine ⟨Nat.one_le_iff_ne_zero.2 ?_, ?_⟩
  · rintro rfl
    rw [classify_eq_error h (by omega)] at hd
    cases b <;> cases hd
  · by_contra hlong
    rw [classify_eq_timedOut h (by omega)] at hd
    cases b <;> cases hd

/-! ### The waits from one sample to another (R120, R277) -/

/-- The samples from number `a` on and before number `z` all read `v`; the coming one is number 0. -/
def LineBetween (v : Level) (a z : Nat) (s : State) : Prop :=
  ∀ k, a ≤ k → k < z → (upcoming s k).lineIn = v

theorem LineBetween.mono {v : Level} {a a' z z' : Nat} {s : State} (h : LineBetween v a z s) (ha : a ≤ a')
    (hz : z' ≤ z) : LineBetween v a' z' s :=
  fun k hak hkz => h k (ha.trans hak) (lt_of_lt_of_le hkz hz)

theorem LineReads.between {v : Level} {n : Nat} {s : State} (h : LineReads v n s) : LineBetween v 0 n s :=
  fun k _ => h k

/-- What only counting has left of a phase's first tick shows how many ticks it took. -/
theorem elapsed_of_counted {k : Nat} {t r : State} (h : sameRegisters t (countedTo k r)) (hk : k ≤ 100000) :
    elapsed t = k + 1 := by
  rw [h.eq_inEnvironment]
  exact elapsed_countedTo t r hk

section
variable {m n b : Nat} {w : Level} {kind : FailKind} {s r : State} (h : RegistersAfter m s r)
  (hw : WaitBegins w b kind r)
include h hw

/-- A wait that begins at sample `m` is still counting before sample `n`. -/
theorem RegistersAfter.wait_until (hmn : m ≤ n) (hn : n < m + b) (hq : QuietFor n s)
    (hline : LineBetween (!w) m n s) : RegistersAfter n s (countedTo (n - m) r) := by
  obtain ⟨j, rfl⟩ := Nat.exists_eq_add_of_le hmn
  rw [Nat.add_sub_cancel_left]
  exact h.wait_counts hw hq (by omega) fun k hk => hline _ (by omega) (by omega)

/-- A wait that begins at sample `m` is left at sample `n`, the first that reads its level. -/
theorem RegistersAfter.wait_left {p : Phase} (hp : afterWait r.ph = some p) (hmn : m ≤ n) (hn : n < m + b)
    (hq : QuietFor (n + 1) s) (hline : LineBetween (!w) m n s) (hlast : (upcoming s n).lineIn = w) :
    RegistersAfter (n + 1) s (enterPhase p r) := by
  obtain ⟨j, rfl⟩ := Nat.exists_eq_add_of_le hmn
  exact h.wait_satisfied hw hp hq (by omega) (fun k hk => hline _ (by omega) (by omega)) hlast

end

/-- Settles O13: the wait counts up to the wanted sample and is left there. -/
theorem boundedWaitIsSatisfied : Obligations.BoundedWaitIsSatisfied := by
  intro s w bound kind e h hwait hz he hle hq hline hlast
  have hw := h.waitBegins hwait hz
  have hmax := hw.bound_le
  have hstart := RegistersAfter.zero s
  obtain ⟨n, rfl⟩ := Nat.exists_eq_add_one.2 he
  rw [Nat.add_sub_cancel] at hline hlast ⊢
  refine ⟨?_, fun p hp => ?_⟩
  · obtain ⟨t, hrun, hsame⟩ := hstart.wait_until hw (Nat.zero_le n) (by omega) (hq.mono (by omega)) hline.between
    exact ⟨t, hrun, hsame, elapsed_of_counted hsame (by omega),
      (congrArg Inputs.lineIn (upcoming_runsTo hrun 0)).trans hlast⟩
  · exact hstart.wait_left hw hp (Nat.zero_le n) (by omega) hq hline.between hlast

/-- Settles O14: the wait counts up to its last permitted sample and fails there. -/
theorem boundedWaitExpires : Obligations.BoundedWaitExpires := by
  intro s w bound kind h hwait hz hq hline
  have hw := h.waitBegins hwait hz
  have hstart := RegistersAfter.zero s
  refine ⟨fun k hk => ?_, ?_⟩
  · exact hstart.wait_until hw (Nat.zero_le k) (by omega) (hq.mono hk.le) (hline.between.mono le_rfl hk.le)
  · have hfailed := hstart.wait_expires hw (by rwa [Nat.zero_add]) fun k hk => by
      rw [Nat.zero_add]; exact hline k hk
    rwa [Nat.zero_add] at hfailed

/-! ### The measurement (R123 to R125) -/

/-- The wait for the fall, which begins at the sample after the rise. -/
theorem WaitBegins.smMeasure {s : State} (hconf : s.cfg.Conforming) (ho : s.lineOe = false) :
    WaitBegins false s.cfg.tTimeout .timeout (enterPhase .smMeasure s) :=
  ⟨hconf, rfl, ho, rfl⟩

theorem consumeSample_bitOutcome {b : Bool} {s u : State} (h : shiftBit b s = .next u) :
    consumeSample (bitOutcome b) s = .next (enterPhase .smGap u) := by
  cases b <;> simp only [bitOutcome, consumeSample, h] <;> rfl

/-- A Bit Sample that is a bit is shifted in, whatever the counter and the environment, and the delay begins. -/
theorem consumeSample_counted {b : Bool} {r u : State} (k : Nat) (e : State) (h : shiftBit b r = .next u) :
    consumeSample (bitOutcome b) (inEnvironment e (countedTo k r)) =
      .next (inEnvironment e (enterPhase .smGap u)) := by
  obtain ⟨v, hv, rfl⟩ := shiftBit_eq_next.1 h
  exact consumeSample_bitOutcome (shiftBit_of_room (s := inEnvironment e (countedTo k r)) b hv)

section
variable {m n : Nat} {s r : State} (h : RegistersAfter m s r) (hp : r.ph = .smMeasure)
  (hw : WaitBegins false r.cfg.tTimeout .timeout r) (hmn : m ≤ n) (hn : n < m + r.cfg.tTimeout)
  (hq : QuietFor (n + 1) s) (hline : LineBetween true m n s) (hlast : (upcoming s n).lineIn = false)
include h hp hw hmn hn hq hline hlast

/-- In `SM_MEASURE` from sample `m` on, the fall at sample `n` gives a pulse of `n + 1 - m` ticks. -/
theorem RegistersAfter.fall {r' : State}
    (hsample : ∀ e, consumeSample (classify r.cfg (n + 1 - m)) (inEnvironment e (countedTo (n - m) r)) =
      .next (inEnvironment e r')) : RegistersAfter (n + 1) s r' := by
  have hmax := hw.bound_le
  refine (h.wait_until hw hmn hn (hq.mono (by omega)) hline).tick hq fun e he => ?_
  have helapsed : elapsed (inEnvironment e (countedTo (n - m) r)) = n + 1 - m := by
    rw [elapsed_countedTo e r (by omega)]
    omega
  have hphase : (countedTo (n - m) r).ph = .smMeasure := hp
  rw [hphase]
  exact (exec_smMeasure_of_low (s := inEnvironment e (countedTo (n - m) r)) hw.input (he.trans hlast)).trans
    (helapsed ▸ hsample e)

/-- The pulse is a bit: it is shifted in. -/
theorem RegistersAfter.fall_bit {b : Bool} {u : State} (hclass : classify r.cfg (n + 1 - m) = bitOutcome b)
    (hu : shiftBit b r = .next u) : RegistersAfter (n + 1) s (enterPhase .smGap u) :=
  h.fall hp hw hmn hn hq hline hlast fun e => by rw [hclass, consumeSample_counted _ e hu]

/-- The pulse is neither bit: `Measurement`. -/
theorem RegistersAfter.fall_error (hclass : classify r.cfg (n + 1 - m) = .error) :
    RegistersAfter (n + 1) s (raiseFail .measurement r) :=
  h.fall hp hw hmn hn hq hline hlast fun e => by rw [hclass]; rfl

end

/-- `SHIFT_IN` with room in the frame counts one bit more and writes no register but `F` and `BITCNT` (R151). -/
theorem shiftBit_of_lt {s : State} (b : Bool) (h : s.bitcnt.toNat < 40) :
    ∃ g, shiftBit b s = .next { s with f := g, bitcnt := s.bitcnt + 1 } := by
  obtain ⟨v, hv⟩ := Frame.get?_of_lt s.f (frameIndex_lt h)
  exact ⟨_, shiftBit_of_room b hv⟩

/-- The rise ends `SM_WAITHIGH` at that very sample, however long the line was low (R124). -/
theorem RegistersAfter.rise {s : State} (ho : s.lineOe = false) (hp : s.ph = .smWaitHigh)
    (hl : (upcoming s 0).lineIn = true) (hq : QuietFor 1 s) : RegistersAfter 1 s (enterPhase .smMeasure s) := by
  refine (RegistersAfter.zero s).tick hq fun e he => ?_
  rw [hp]
  exact exec_wait_satisfied (s := inEnvironment e s) (p := .smWaitHigh) rfl rfl ho (he.trans hl)

/-- Settles O24: after the rise, `SM_MEASURE` counts the high samples; at the fall their number is classified, and
with no fall by the bound the wait expires. -/
theorem pulseDurationIsMeasured : Obligations.PulseDurationIsMeasured := by
  intro s h hp hhigh
  have ho : s.lineOe = false := h.readable (by rw [hp]; rfl)
  have hw := WaitBegins.smMeasure h.conforming ho
  have hrise := fun hq => RegistersAfter.rise (s := s) ho hp hhigh hq
  obtain ⟨-, -, ht, -⟩ := conforming_values h.conforming
  refine ⟨fun e he hle hq hline hfall => ?_, fun hq hline => ?_⟩
  · have hmeasure := hrise (hq.mono (by omega))
    have hbetween : LineBetween true 1 e s := hline.between.mono (by omega) le_rfl
    have hlt : e < 1 + s.cfg.tTimeout := by omega
    obtain ⟨t, hrun, hsame⟩ := hmeasure.wait_until hw he hlt (hq.mono (by omega)) hbetween
    refine ⟨t, hrun, hsame.1, by rw [elapsed_of_counted hsame (by omega)]; omega, ?_⟩
    have hbands : (26 ≤ e ∧ e ≤ 28 ∨ 70 ≤ e) ∨ e ≤ 25 ∨ 29 ≤ e ∧ e ≤ 69 := by omega
    rcases hbands with hbit | herror
    · obtain ⟨b, hb⟩ := classify_eq_bitOutcome h.conforming (by omega) hbit
      have hroom : s.bitcnt.toNat ≤ 39 := h.bitsRoom (by simp [hp])
      obtain ⟨g, hu⟩ := shiftBit_of_lt (s := enterPhase .smMeasure s) b (Nat.lt_succ_of_le hroom)
      obtain ⟨u, hrun', hsame'⟩ := hmeasure.fall_bit rfl hw he hlt hq hbetween hfall hb hu
      obtain ⟨hph, -, hcount, -⟩ := hsame'
      refine ⟨iff_of_true ⟨u, hrun', hph, hcount⟩ hbit, iff_of_false ?_ (by omega)⟩
      rintro ⟨u', hrun'', hfailed, -⟩
      rw [hrun'.unique hrun'', hph] at hfailed
      cases hfailed
    · obtain ⟨u, hrun', hsame'⟩ := hmeasure.fall_error rfl hw he hlt hq hbetween hfall
        (classify_eq_error h.conforming herror)
      refine ⟨iff_of_false ?_ (by omega), iff_of_true ⟨u, hrun', hsame'⟩ herror⟩
      rintro ⟨u', hrun'', hgap, -⟩
      rw [hrun'.unique hrun'', hsame'.1] at hgap
      cases hgap
  · rw [Nat.add_comm] at hq hline ⊢
    exact (hrise (hq.mono (by omega))).wait_expires hw hq fun k hk => hline _ (by omega)

end Sys2Proof.Machine
end

section
/-! PROOFS. A line that carries a frame (R130, R131): what the script of R83 gives at each sample, one pulse from
the wait for its low run to the end of its delay, and from that the forty pulses and the frame they leave. -/

namespace Sys2Proof.Machine

/-! ### The frame that forty bits decide (R53) -/

theorem Frame.ext_byte {f g : Frame} (h : ∀ i v w, i < 5 → f.get? i = some v → g.get? i = some w → v = w) :
    f = g := by
  apply Frame.ext_get?
  intro i
  by_cases hi : i < 5
  · obtain ⟨v, hv⟩ := f.get?_of_lt hi
    obtain ⟨w, hw⟩ := g.get?_of_lt hi
    rw [hv, hw, h i v w hi hv hw]
  · rw [Frame.get?_of_ge _ (by omega), Frame.get?_of_ge _ (by omega)]

/-- A frame is decided by its forty bits. -/
theorem Frame.eq_of_bit {f g : Frame} (h : ∀ k, k < 40 → f.bit k = g.bit k) : f = g := by
  have hword : ∀ j, j < 40 → f.word.getLsbD j = g.word.getLsbD j := fun j hj => by
    have hj' : 39 - (39 - j) = j := by omega
    simpa only [Frame.bit, hj'] using h (39 - j) (by omega)
  exact Frame.ext_byte fun i v w hi hv hw => BitVec.eq_of_getLsbD_eq fun m hm => by
    rw [← Frame.getLsbD_word hv hm, ← Frame.getLsbD_word hw hm, hword _ (by omega)]

/-- The first `n` bits of a frame in the order of the line (R52). -/
def Frame.firstBits (f : Frame) (n : Nat) : List Bool := (List.range n).map f.bit

theorem Frame.length_firstBits (f : Frame) (n : Nat) : (f.firstBits n).length = n := by
  simp [Frame.firstBits]

theorem Frame.firstBits_succ (f : Frame) (n : Nat) : f.firstBits (n + 1) = f.firstBits n ++ [f.bit n] := by
  simp [Frame.firstBits, List.range_succ]

theorem Assembled.eq_frame {f : Frame} {s : State} (h : Assembled (f.firstBits 40) s) : s.f = f :=
  Frame.eq_of_bit fun k hk => by
    rw [h.bit_eq (f.length_firstBits 40) hk]
    simp [Frame.firstBits, hk]

/-- Where no bit is in, the frame is empty (R40 (g)). -/
theorem Invariant.frame_eq_zero {s : State} (h : Invariant s) (hb : s.bitcnt = 0) : s.f = Frame.zero := by
  obtain ⟨hlater, htop⟩ := h.filled
  have hcount : s.bitcnt.toNat = 0 := by rw [hb]; rfl
  have hindex : frameIndex s = 0 := by rw [frameIndex, hcount]
  rw [hindex] at hlater htop
  refine Frame.ext_byte fun i v w _ hv hw => ?_
  rw [Frame.get?_zero_byte hw]
  cases i with
  | zero =>
    have hlt := htop (by omega) v hv
    rw [hcount] at hlt
    exact BitVec.eq_of_toNat_eq (Nat.lt_one_iff.1 hlt)
  | succ i => exact hlater _ v hv (Nat.succ_pos i)

/-! ### One pulse (R121 to R128) -/

/-- From sample `m` on the line carries the bit `b` within the bounds (R130): it falls at sample `drop`, rises at
`rise` and falls again at `fall`. -/
structure CarriesBit (c : Params) (b : Bool) (m drop rise fall : Nat) (s : State) : Prop where
  starts : m ≤ drop ∧ drop < m + c.tTimeout
  lowRun : drop < rise ∧ rise ≤ drop + c.tTimeout
  width : rise ≤ fall ∧ classify c (fall - rise) = bitOutcome b
  idle : LineBetween true m drop s
  low : LineBetween false drop rise s
  high : LineBetween true rise fall s
  ended : (upcoming s fall).lineIn = false

/-- A core at the first tick of a phase of the sampler, with the first `n` bits of `f` in. -/
structure HasBits (c : Params) (f : Frame) (n : Nat) (r : State) : Prop where
  cfg : r.cfg = c
  input : r.lineOe = false
  first : r.tmr = 0
  bits : Assembled (f.firstBits n) r

/-- The phase that the delay after `n` bits leads to (R128). -/
def afterBits (n : Nat) : Phase := if n = 40 then .validate else .smWaitLow

theorem CarriesBit.rise_lt_fall {c : Params} {b : Bool} {m drop rise fall : Nat} {s : State}
    (h : CarriesBit c b m drop rise fall s) (hconf : c.Conforming) : rise < fall := by
  have := (width_of_bitOutcome hconf h.width.2).1
  omega

section
variable {c : Params} {f : Frame} {n m drop rise fall : Nat} {s r : State} (h : RegistersAfter m s r)
  (hr : HasBits c f n r) (hp : r.ph = .smWaitLow) (hconf : c.Conforming)
  (hline : CarriesBit c (f.bit n) m drop rise fall s)
include h hr hp hconf hline

/-- The waits for the low and the high run of a pulse are satisfied, and measuring begins after its rise. -/
theorem RegistersAfter.reach_smMeasure (hq : QuietFor (rise + 1) s) :
    RegistersAfter (rise + 1) s (enterPhase .smMeasure r) := by
  have hfall := hline.rise_lt_fall hconf
  obtain ⟨rfl, ho, hz, -⟩ := hr
  obtain ⟨⟨hmd, hdrop⟩, ⟨hdr, hrise⟩, -, hidle, hlow, hhigh, -⟩ := hline
  have hwaitLow : WaitBegins false r.cfg.tTimeout .timeout r := ⟨hconf, by rw [hp]; rfl, ho, hz⟩
  have hwaitHigh : WaitBegins true r.cfg.tTimeout .timeout (enterPhase .smWaitHigh r) := ⟨hconf, rfl, ho, rfl⟩
  have hdropped : RegistersAfter (drop + 1) s (enterPhase .smWaitHigh r) :=
    h.wait_left hwaitLow (by rw [hp]; rfl) hmd hdrop (hq.mono (by omega)) hidle (hlow drop le_rfl hdr)
  exact hdropped.wait_left hwaitHigh rfl hdr (by omega) hq (hlow.mono (by omega) le_rfl)
    (hhigh rise le_rfl hfall)

/-- One pulse is received: its bit is in when the delay after it ends, `T_GAP` ticks after its fall. -/
theorem RegistersAfter.receive_bit (hn : n < 40) (hq : QuietFor (fall + 1 + c.tGap) s) :
    ∃ r', RegistersAfter (fall + 1 + c.tGap) s r' ∧ HasBits c f (n + 1) r' ∧ r'.ph = afterBits (n + 1) := by
  have hfall := hline.rise_lt_fall hconf
  have hmeasure := h.reach_smMeasure hr hp hconf hline (hq.mono (by omega))
  obtain ⟨rfl, ho, -, hbits⟩ := hr
  obtain ⟨-, -, ⟨-, hclass⟩, -, -, hhigh, hended⟩ := hline
  obtain ⟨-, hwidth⟩ := width_of_bitOutcome hconf hclass
  obtain ⟨-, -, -, -, -, -, -, hbound, -⟩ := conforming_values hconf
  have hcount : r.bitcnt.toNat = n := hbits.count.trans (f.length_firstBits n)
  obtain ⟨g, hshift⟩ := shiftBit_of_lt (s := enterPhase .smMeasure r) (f.bit n) (by rw [enterPhase_bitcnt]; omega)
  have hall : Assembled (f.firstBits (n + 1)) { enterPhase .smMeasure r with f := g, bitcnt := r.bitcnt + 1 } := by
    rw [f.firstBits_succ]
    exact Assembled.of_shiftBit (s := enterPhase .smMeasure r) ⟨hbits.count, hbits.bytes⟩ hshift
  have hgap : RegistersAfter (fall + 1) s
      (enterPhase .smGap { enterPhase .smMeasure r with f := g, bitcnt := r.bitcnt + 1 }) :=
    hmeasure.fall_bit rfl (.smMeasure hconf ho) hfall (by simp only [enterPhase_cfg]; omega)
      (hq.mono (by omega)) (hhigh.mono (by omega) le_rfl) hended (by rwa [Nat.add_sub_add_right]) hshift
  refine ⟨_, hgap.smGap_ends rfl hconf rfl hq, ⟨rfl, ho, rfl, hall.count, hall.bytes⟩, ?_⟩
  have hcount' : (r.bitcnt + 1).toNat = n + 1 := hall.count.trans (f.length_firstBits _)
  simp only [enterPhase_ph, enterPhase_bitcnt, enterPhase_cfg, hcount', hbound, afterBits]

end

/-! ### The line of a script (R83) -/

/-- A run in the listed levels is what the line reads at its samples. -/
theorem lineBetween_of_run {s : State} {before after : List Level} {v : Level} {n : Nat} {rest : List Inputs}
    (h : s.inputs = quietInputs (before ++ List.replicate n v ++ after) ++ rest) :
    LineBetween v before.length (before.length + n) s := fun k hk hk' => by
  refine lineIn_of_inputs h ?_
  rw [List.append_assoc, List.getElem?_append_right hk, List.getElem?_append_left (by simp; omega)]
  exact List.getElem?_replicate_of_lt (by omega)

theorem pulseRuns_append (ps qs : List Pulse) : pulseRuns (ps ++ qs) = pulseRuns ps ++ pulseRuns qs :=
  List.flatMap_append

/-- The sample at which pulse number `n` begins, after `h` high samples: the first of its low run. -/
def pulseStart (h : Nat) (ps : List Pulse) (n : Nat) : Nat := h + pulseTicks (ps.take n)

theorem pulseStart_zero (h : Nat) (ps : List Pulse) : pulseStart h ps 0 = h := by simp [pulseStart, pulseTicks]

theorem pulseStart_succ {h n : Nat} {ps : List Pulse} {p : Pulse} (hp : ps[n]? = some p) :
    pulseStart h ps (n + 1) = pulseStart h ps n + p.lowRun + p.width := by
  simp only [pulseStart, pulseTicks, List.take_add_one, hp, Option.toList_some, List.map_append, List.sum_append,
    List.map_cons, List.map_nil, List.sum_cons, List.sum_nil]
  omega

theorem length_levels_before (h : Nat) (ps : List Pulse) (n : Nat) :
    (levels (high h :: pulseRuns (ps.take n))).length = pulseStart h ps n := by
  rw [← List.singleton_append, levels_append, List.length_append, length_pulseRuns, length_levels]
  simp [pulseStart, high]

section
variable {s : State} {h n : Nat} {ps : List Pulse} {rest : List Inputs}
  (hin : s.inputs = quietInputs (levels (high h :: pulseRuns ps ++ [low 1])) ++ rest)
include hin

/-- Before the first pulse the line is high. -/
theorem lineBetween_idle : LineBetween true 0 h s := by
  have hlevels : levels (high h :: pulseRuns ps ++ [low 1]) =
      [] ++ List.replicate h true ++ levels (pulseRuns ps ++ [low 1]) := rfl
  rw [hlevels] at hin
  simpa using lineBetween_of_run hin

/-- Pulse number `n` on the line: its low run, then its high run up to the start of the next. -/
theorem lineBetween_pulse {p : Pulse} (hp : ps[n]? = some p) :
    LineBetween false (pulseStart h ps n) (pulseStart h ps n + p.lowRun) s ∧
      LineBetween true (pulseStart h ps n + p.lowRun) (pulseStart h ps (n + 1)) s := by
  have hnext := pulseStart_succ (h := h) hp
  obtain ⟨hn, rfl⟩ := List.getElem?_eq_some_iff.1 hp
  have hps : ps = ps.take n ++ ps[n] :: ps.drop (n + 1) := by
    rw [← List.drop_eq_getElem_cons hn, List.take_append_drop]
  have hruns : pulseRuns ps =
      pulseRuns (ps.take n) ++ low ps[n].lowRun :: high ps[n].width :: pulseRuns (ps.drop (n + 1)) :=
    (congrArg pulseRuns hps).trans (pulseRuns_append _ _)
  have hlevels : levels (high h :: pulseRuns ps ++ [low 1]) =
      levels (high h :: pulseRuns (ps.take n)) ++ List.replicate ps[n].lowRun false ++
        (List.replicate ps[n].width true ++ levels (pulseRuns (ps.drop (n + 1)) ++ [low 1])) := by
    rw [hruns]
    simp [levels, low, high]
  rw [hlevels] at hin
  have hlow := lineBetween_of_run hin
  rw [← List.append_assoc] at hin
  have hhigh := lineBetween_of_run hin
  rw [List.length_append, List.length_replicate] at hhigh
  rw [length_levels_before] at hlow hhigh
  exact ⟨hlow, hnext ▸ hhigh⟩

/-- The sample at which a pulse would begin is low: of the pulse's own low run, or the last one listed. -/
theorem lineIn_pulseStart (hn : n ≤ ps.length) (hpos : ∀ p, ps[n]? = some p → 1 ≤ p.lowRun) :
    (upcoming s (pulseStart h ps n)).lineIn = false := by
  rcases Nat.lt_or_eq_of_le hn with hlt | rfl
  · have hp := List.getElem?_eq_getElem hlt
    have := hpos _ hp
    exact (lineBetween_pulse hin hp).1 _ le_rfl (by omega)
  · have hlevels : levels (high h :: pulseRuns ps ++ [low 1]) =
        levels (high h :: pulseRuns (ps.take ps.length)) ++ List.replicate 1 false ++ [] := by
      rw [List.take_length, levels_append, List.append_nil]
      rfl
    rw [hlevels] at hin
    exact lineBetween_of_run hin _ (length_levels_before h ps _).le (by rw [length_levels_before]; omega)

end

/-! ### The transmission (R130, R131) -/

section
variable {s : State} {f : Frame} {h : Nat} {ps : List Pulse} {rest : List Inputs}
  (hlegal : LegalPulses s.cfg f ps)
  (hin : s.inputs = quietInputs (levels (high h :: pulseRuns ps ++ [low 1])) ++ rest)

include hlegal in
theorem LegalPulses.lowRun_pos {n : Nat} {p : Pulse} (hp : ps[n]? = some p) : 1 ≤ p.lowRun := by
  obtain ⟨-, hfirst, hlater⟩ := hlegal.2 n p hp
  cases n with
  | zero => exact (hfirst rfl).1
  | succ n =>
    have := (hlater n.succ_pos).1
    omega

include hlegal hin

/-- Pulse number `n`, for a wait that begins at sample `m` and sees the line low at sample `drop`. -/
theorem carriesBit_pulse {n m drop : Nat} {p : Pulse} (hp : ps[n]? = some p)
    (hstart : m ≤ drop ∧ drop < m + s.cfg.tTimeout) (hidle : LineBetween true m drop s)
    (hdrop : pulseStart h ps n ≤ drop)
    (hrise : drop < pulseStart h ps n + p.lowRun ∧ pulseStart h ps n + p.lowRun ≤ drop + s.cfg.tTimeout) :
    CarriesBit s.cfg (f.bit n) m drop (pulseStart h ps n + p.lowRun) (pulseStart h ps (n + 1)) s := by
  obtain ⟨hlow, hhigh⟩ := lineBetween_pulse hin hp
  have hnext := pulseStart_succ (h := h) hp
  have hn : n < ps.length := (List.getElem?_eq_some_iff.1 hp).1
  refine ⟨hstart, hrise, ⟨by omega, ?_⟩, hidle, hlow.mono hdrop le_rfl, hhigh,
    lineIn_pulseStart hin hn fun q hq => hlegal.lowRun_pos hq⟩
  rw [hnext, Nat.add_sub_cancel_left]
  exact (hlegal.2 n p hp).1

/-- The first pulse falls when the line has been high for `h` samples. -/
theorem carriesBit_first {p : Pulse} (hp : ps[0]? = some p) (hh : h < s.cfg.tTimeout) :
    CarriesBit s.cfg (f.bit 0) 0 h (pulseStart h ps 0 + p.lowRun) (pulseStart h ps 1) s := by
  obtain ⟨-, hfirst, -⟩ := hlegal.2 0 p hp
  obtain ⟨hmin, hmax⟩ := hfirst rfl
  have hzero := pulseStart_zero h ps
  exact carriesBit_pulse hlegal hin hp (by omega) (lineBetween_idle hin) (by omega) (by omega)

/-- A later pulse is low already when the delay before it ends, and for long enough after it. -/
theorem carriesBit_later {n : Nat} {p : Pulse} (hp : ps[n + 1]? = some p) (hpos : 0 < s.cfg.tTimeout) :
    CarriesBit s.cfg (f.bit (n + 1)) (pulseStart h ps (n + 1) + 1 + s.cfg.tGap)
      (pulseStart h ps (n + 1) + 1 + s.cfg.tGap) (pulseStart h ps (n + 1) + p.lowRun)
      (pulseStart h ps (n + 1 + 1)) s := by
  obtain ⟨-, -, hlater⟩ := hlegal.2 (n + 1) p hp
  obtain ⟨hmin, hmax⟩ := hlater n.succ_pos
  exact carriesBit_pulse hlegal hin hp (by omega) (fun k hk hk' => absurd hk (by omega)) (by omega) (by omega)

/-- After each pulse and its delay, one bit more of the frame is in. -/
theorem bits_received (hs : HasBits s.cfg f 0 s) (hp : s.ph = .smWaitLow) (hconf : s.cfg.Conforming)
    (hh : h < s.cfg.tTimeout) {n : Nat} (hn : n < 40)
    (hq : QuietFor (pulseStart h ps (n + 1) + 1 + s.cfg.tGap) s) :
    ∃ r, RegistersAfter (pulseStart h ps (n + 1) + 1 + s.cfg.tGap) s r ∧ HasBits s.cfg f (n + 1) r ∧
      r.ph = afterBits (n + 1) := by
  have hget : ∀ k, k < 40 → ∃ p, ps[k]? = some p := fun k hk =>
    ⟨_, List.getElem?_eq_getElem (hlegal.1 ▸ hk)⟩
  obtain ⟨p, hpulse⟩ := hget n hn
  induction n generalizing p with
  | zero => exact (RegistersAfter.zero s).receive_bit hs hp hconf (carriesBit_first hlegal hin hpulse hh) hn hq
  | succ n ih =>
    obtain ⟨q, hpulse'⟩ := hget n (by omega)
    have hnext := pulseStart_succ (h := h) hpulse
    obtain ⟨r, hafter, hr, hph⟩ := ih (by omega) (hq.mono (by omega)) q hpulse'
    have hwait : r.ph = .smWaitLow := by rw [hph, afterBits, if_neg (by omega)]
    exact hafter.receive_bit hr hwait hconf (carriesBit_later hlegal hin hpulse (by omega)) hn hq

end

/-- The tick of `VALIDATE` (R188). -/
theorem RegistersAfter.validate {m : Nat} {s r : State} (h : RegistersAfter m s r) (hp : r.ph = .validate)
    (hq : QuietFor (m + 1) s) :
    RegistersAfter (m + 1) s (if checksumOk r.f then
      clearTransient { r with hum := convHum r.f, temp := convTemp r.f, ph := .done }
      else raiseFail .checksumError r) := by
  refine h.tick hq fun e _ => ?_
  rw [hp]
  refine validateFrame_eq_next.2 ?_
  cases hc : checksumOk r.f with
  | true => exact .inl ⟨hc, rfl⟩
  | false => exact .inr ⟨hc, rfl⟩

/-- Settles O27: pulse by pulse the bits of the frame come in, and after the fortieth `VALIDATE` has all of it. -/
theorem legalLineIsDecoded : Obligations.LegalLineIsDecoded := by
  intro s f ps h rest hinv hp hz hb hlegal hh hin hq
  have hs : HasBits s.cfg f 0 s :=
    ⟨rfl, hinv.readable (by rw [hp]; rfl), hz, .of_empty hb (hinv.frame_eq_zero hb)⟩
  have hticks : pulseStart h ps 40 = h + pulseTicks ps := by
    rw [pulseStart, List.take_of_length_le hlegal.1.le]
  rw [← hticks] at hq ⊢
  obtain ⟨r, hafter, hr, hph⟩ :=
    bits_received hlegal hin hs hp hinv.conforming hh (n := 39) (by omega) (hq.mono (Nat.le_succ _))
  have hframe : r.f = f := hr.bits.eq_frame
  refine ⟨?_, ?_⟩
  · obtain ⟨t, hrun, hph', -, hcount, hf, -⟩ := hafter
    exact ⟨t, hrun, hph'.trans hph, by rw [hcount, hr.bits.count, f.length_firstBits], hf.trans hframe⟩
  · obtain ⟨t, hrun, hsame⟩ := hafter.validate hph hq
    rw [hframe] at hsame
    refine ⟨t, hrun, fun hok => ?_, fun hbad => ?_⟩
    · rw [if_pos hok] at hsame
      obtain ⟨hph', -, -, -, -, hhum, htemp, -⟩ := hsame
      exact ⟨hph', hhum, htemp⟩
    · rw [if_neg (by simp [hbad])] at hsame
      obtain ⟨hph', -, -, -, herr, -⟩ := hsame
      exact ⟨hph', herr⟩

end Sys2Proof.Machine
end

section
/-! PROOFS. The frame assembler: what one `SHIFT_IN` writes, what a run of them leaves while the frame has room,
the value of a byte by its bits, and the checksum (R151 to R153). -/

namespace Sys2Proof.Machine

/-! ### One bit (R151) -/

/-- Settles O28: `SHIFT_IN` sets the one byte that `BITCNT` points at and counts the bit. -/
theorem shiftInPacksABit : Obligations.ShiftInPacksABit := by
  intro s b hroom
  have hindex : frameIndex s < 5 := frameIndex_lt (Nat.lt_succ_of_le hroom)
  obtain ⟨v, hv⟩ := s.f.get?_of_lt hindex
  refine ⟨v, _, hv, shiftBit_of_room b hv, rfl, ?_, fun i hi => Frame.get?_set_other _ _ hi⟩
  rw [← shiftByte_eq_ofNat]
  exact Frame.get?_set_same _ _ hindex

/-! ### Forty bits (R152) -/

/-- `SHIFT_IN`s into an empty frame go through while the frame has room. -/
theorem shiftAll_answers {bits : List Bool} {s : State} (hb : s.bitcnt = 0) (hf : s.f = Frame.zero)
    (hlen : bits.length ≤ 40) : ∃ t, shiftAll bits s = .next t := by
  induction bits using List.reverseRecOn with
  | nil => exact ⟨s, rfl⟩
  | append_singleton bits b ih =>
    rw [List.length_append, List.length_singleton] at hlen
    obtain ⟨u, hu⟩ := ih (Nat.le_of_succ_le hlen)
    have hroom : u.bitcnt.toNat < 40 := (Assembled.of_shiftAll hb hf hu).count.trans_lt hlen
    obtain ⟨g, hlast⟩ := shiftBit_of_lt b hroom
    exact ⟨_, (shiftAll_concat bits b s).trans (andThen_eq_next.2 ⟨u, hu, hlast⟩)⟩

theorem bitNat_eq_toNat (b : Bool) : bitNat b = b.toNat := by cases b <;> rfl

/-- The low `n` bits of a number are the sum of their places, the most significant first. -/
theorem mod_two_pow_eq_sum_testBit (x n : Nat) :
    x % 2 ^ n = ((List.range n).map fun j => bitNat (x.testBit (n - 1 - j)) * 2 ^ (n - 1 - j)).sum := by
  induction n with
  | zero => simp [Nat.mod_one]
  | succ n ih =>
    have htop : bitNat (x.testBit n) = x / 2 ^ n % 2 := (bitNat_eq_toNat _).trans (Nat.toNat_testBit x n)
    rw [Nat.mod_pow_succ, ih, List.sum_range_succ', Nat.add_sub_cancel, Nat.sub_zero, htop, Nat.add_comm,
      Nat.mul_comm]
    simp only [Nat.succ_eq_one_add, Nat.sub_sub]

/-- A frame has no byte past its five (R50). -/
theorem Frame.lt_of_get? {f : Frame} {i : Nat} {v : Byte} (hv : f.get? i = some v) : i < 5 := by
  by_contra hout
  rw [Frame.get?_of_ge _ (Nat.le_of_not_lt hout)] at hv
  cases hv

/-- A byte of a frame is the sum of its eight bits in the order of the line (R52, R53). -/
theorem Frame.toNat_byte {f : Frame} {i : Nat} {v : Byte} (hv : f.get? i = some v) :
    v.toNat = ((List.range 8).map fun j => bitNat (f.bit (8 * i + j)) * 2 ^ (7 - j)).sum := by
  have hi := Frame.lt_of_get? hv
  have hbit : ∀ j ∈ List.range 8, v.toNat.testBit (7 - j) = f.bit (8 * i + j) := fun j hj => by
    have hplace : 39 - (8 * i + j) = 8 * (4 - i) + (7 - j) := by have := List.mem_range.1 hj; omega
    rw [Frame.bit, hplace, Frame.getLsbD_word hv (by omega), BitVec.getLsbD]
  calc v.toNat = v.toNat % 2 ^ 8 := (Nat.mod_eq_of_lt v.isLt).symm
    _ = ((List.range 8).map fun j => bitNat (v.toNat.testBit (7 - j)) * 2 ^ (7 - j)).sum :=
      mod_two_pow_eq_sum_testBit _ 8
    _ = _ := congrArg List.sum (List.map_congr_left fun j hj => by rw [hbit j hj])

/-- Settles O30: the forty shifts go through, and each byte is the sum of the eight bits that went into it. -/
theorem fortyShiftsFillTheFrame : Obligations.FortyShiftsFillTheFrame := by
  intro s bits hlen hb hf
  obtain ⟨t, ht⟩ := shiftAll_answers hb hf hlen.le
  have hbits := Assembled.of_shiftAll hb hf ht
  refine ⟨t, ht, hbits.count.trans hlen, fun i v hv => ?_⟩
  have hi := Frame.lt_of_get? hv
  rw [Frame.toNat_byte hv]
  refine congrArg List.sum (List.map_congr_left fun j hj => ?_)
  have hj := List.mem_range.1 hj
  rw [hbits.bit_eq hlen (by omega)]

/-! ### The checksum (R153) -/

/-- Settles O32: `CHECKSUM` hands the comparison back, and where it fails `VALIDATE` raises the failure. -/
theorem checksumComparesTheLowByte : Obligations.ChecksumComparesTheLowByte := fun _ =>
  ⟨rfl, checksumOk_eq_true, fun hbad => validateFrame_eq_next.2 (.inr ⟨hbad, rfl⟩)⟩

end Sys2Proof.Machine
end

section
/-! PROOFS. The unit converter: the two registers as numbers in the bytes of the frame (R166, R167), and the
reading they give after `VALIDATE` (R168). -/

namespace Sys2Proof.Machine

theorem convHum_toNat (f : Frame) : (convHum f).toNat = 256 * f.f0.toNat + f.f1.toNat :=
  f.humidity_toNat

/-- Settles O33: the register gets the first two bytes, the high one first. -/
theorem convHumAssemblesHumidity : Obligations.ConvHumAssemblesHumidity := fun s =>
  ⟨convHum s.f, rfl, convHum_toNat s.f⟩

/-! ### The sign of the temperature (R167) -/

theorem signedTenths_eq (f : Frame) :
    signedTenths f =
      (if 128 ≤ f.f2.toNat then -1 else 1) * (256 * (f.f2.toNat % 128 : Nat) + f.f3.toNat) := by
  rw [signedTenths, Frame.negative_eq, Frame.magnitude_toNat]
  by_cases hsign : 128 ≤ f.f2.toNat <;> simp [hsign]

theorem signedTenths_of_lt {f : Frame} (h : f.f2.toNat < 128) :
    signedTenths f = 256 * f.f2.toNat + f.f3.toNat := by
  rw [signedTenths_eq, if_neg (Nat.not_le.2 h), one_mul, Nat.mod_eq_of_lt h]

theorem signedTenths_of_ge {f : Frame} (h : 128 ≤ f.f2.toNat) :
    signedTenths f = -(256 * (f.f2.toNat - 128 : Int) + f.f3.toNat) := by
  have hlow : ((f.f2.toNat % 128 : Nat) : Int) = f.f2.toNat - 128 := by have := f.f2.isLt; omega
  rw [signedTenths_eq, if_pos h, neg_one_mul, hlow]

/-- A magnitude has fifteen bits, so its negation stops short of the least 16-bit number. -/
theorem intMin_lt_signedTenths (f : Frame) : -32768 < signedTenths f := by
  have hm := f.magnitude.isLt
  unfold signedTenths
  split <;> omega

theorem convTemp_ne_intMin (f : Frame) : convTemp f ≠ 0x8000#16 := fun h =>
  (intMin_lt_signedTenths f).ne' ((convTemp_toInt f).symm.trans (congrArg BitVec.toInt h))

/-- Settles O34: the register holds the signed tenths, by the sign bit the magnitude or its negation. -/
theorem convTempAppliesTheSign : Obligations.ConvTempAppliesTheSign := fun s =>
  ⟨convTemp s.f, rfl, fun hpos => (convTemp_toInt s.f).trans (signedTenths_of_lt hpos),
    fun hneg => (convTemp_toInt s.f).trans (signedTenths_of_ge hneg), convTemp_ne_intMin s.f⟩

/-! ### The reading of a valid frame (R168) -/

/-- Settles O36: `VALIDATE` is done with both registers converted, and the result is those numbers of tenths. -/
theorem validFramesConvertExactly : Obligations.ValidFramesConvertExactly := by
  rintro s _ hsum rfl
  have htemp := (convTemp_toInt s.f).trans (signedTenths_eq s.f)
  have hhum := convHum_toNat s.f
  refine ⟨_, validateFrame_eq_next.2 (.inl ⟨checksumOk_eq_true.2 hsum, rfl⟩), hhum, htemp, ?_⟩
  rw [result_of_done rfl, ← hhum, ← htemp]
  rfl

end Sys2Proof.Machine
end

section
/-! PROOFS. The decode orchestrator (R180 to R191): the command of a tick and the arms of the step, the phases
that end an attempt, and the transfers of control. -/

namespace Sys2Proof.Machine

/-! ### The command of a tick (R78, R180) -/

theorem fetch_of_rst {s : State} (hr : (currentInput s).rst = true) :
    fetch s = .reset (currentInput s).start := by
  simp [fetch, command, hr]

theorem fetch_of_start {s : State} (hr : (currentInput s).rst = false) (hs : (currentInput s).start = true) :
    fetch s = .decode := by
  simp [fetch, command, hr, hs]

/-- A tick without a command is the rule of the phase. -/
theorem step_of_nop {s u : State} (hr : (currentInput s).rst = false) (hs : (currentInput s).start = false)
    (h : execNop s = .next u) : step s = .next (endTick u) :=
  step_eq_next.2 ⟨u, by rw [fetch_of_quiet hr hs]; exact h, rfl⟩

theorem execDecode_of_busy {s : State} (h : busy s = true) : execDecode s = .refused .startWhileBusy :=
  if_pos h

theorem step_of_start_while_busy {s : State} (hb : busy s = true) (hr : (currentInput s).rst = false)
    (hs : (currentInput s).start = true) : step s = .refused .startWhileBusy := by
  rw [step_eq_afterTick, fetch_of_start hr hs, exec, execDecode_of_busy hb]
  rfl

/-- Settles O3: `DECODE` writes both line registers and begins an attempt in `HS_LOW`. -/
theorem decodeBeginsAnAttempt : Obligations.DecodeBeginsAnAttempt := by
  intro s hb
  refine ⟨execDecode_eq_next.2 ⟨hb, rfl⟩, fun t ht => ?_⟩
  obtain ⟨-, rfl⟩ := execDecode_eq_next.1 ht
  exact ⟨rfl, rfl, rfl⟩

/-- Settles O4: the command of such a tick is `DECODE`, and its refusal is the step's. -/
theorem startWhileBusyIsRefused : Obligations.StartWhileBusyIsRefused := fun _ hb =>
  ⟨execDecode_of_busy hb, step_of_start_while_busy hb⟩

/-- Settles O5: by the two command bits, and by whether the core is busy. -/
theorem stepFollowsItsRule : Obligations.StepFollowsItsRule := by
  intro s
  simp only [← busy_eq_false_iff]
  cases hr : (currentInput s).rst with
  | true => rw [if_pos rfl, step_eq_afterTick, fetch_of_rst hr]
  | false =>
    rw [if_neg Bool.false_ne_true]
    cases hb : busy s with
    | false =>
      rw [if_pos rfl]
      cases hs : (currentInput s).start with
      | true => rw [if_pos rfl, step_eq_afterTick, fetch_of_start hr hs]
      | false => rw [if_neg Bool.false_ne_true, step_of_nop hr hs (execNop_of_not_busy hb)]
    | true =>
      rw [if_neg Bool.false_ne_true.symm]
      cases hs : (currentInput s).start with
      | true => rw [if_pos rfl, step_of_start_while_busy hb hr hs]
      | false => rw [if_neg Bool.false_ne_true, step_eq_afterTick, fetch_of_quiet hr hs, execNop_eq_phase]

/-- Settles O50: `RESET` and an accepted `DECODE` have a next state, and under the invariant so has every phase. -/
theorem onlyStartWhileBusyStops : Obligations.OnlyStartWhileBusyStops := by
  intro s h
  constructor
  · rintro ⟨t, ht⟩ ⟨hr, hs, hb⟩
    rw [step_of_start_while_busy hb hr hs] at ht
    cases ht
  · intro hnot
    cases hr : (currentInput s).rst with
    | true => exact ⟨_, step_of_rst hr⟩
    | false =>
      cases hs : (currentInput s).start with
      | true => exact ⟨_, step_of_accepted (Bool.eq_false_iff.2 fun hb => hnot ⟨hr, hs, hb⟩) hr hs⟩
      | false =>
        obtain ⟨u, hu⟩ := h.execNop_answers
        exact ⟨_, step_of_nop hr hs hu⟩

/-! ### The phases of the orchestrator (R185, R188 to R190) -/

/-- Settles O7: the three phases answer the state they are given, and the result goes by the phase. -/
theorem quiescentPhasesHold : Obligations.QuiescentPhasesHold := fun _ =>
  ⟨rfl, rfl, rfl, execNop_of_not_busy,
    fun hb hr hs => step_of_nop hr hs (execNop_of_not_busy hb),
    fun hp => result_of_pending (by simp [hp]) (by simp [hp]),
    fun hp => ⟨done_eq_true_iff.2 hp, rfl, rfl, result_of_done hp⟩,
    fun hp => ⟨failed_eq_true_iff.2 hp, fun _ hk => ⟨outputs_err_of_eq hk, result_of_failed hp hk⟩⟩⟩

/-- Settles O35: the two arms of the validator. -/
theorem validateConvertsOrFails : Obligations.ValidateConvertsOrFails := fun _ =>
  ⟨fun hok => validateFrame_eq_next.2 (.inl ⟨hok, rfl⟩), fun hbad => validateFrame_eq_next.2 (.inr ⟨hbad, rfl⟩)⟩

/-! ### The transfers of control (R181) -/

/-- Every move but a reset stays in its phase or makes a transfer of the table. -/
theorem Move.transfer {s u : State} (hm : Move s u) (hr : (currentInput s).rst = false) :
    u.ph = s.ph ∨ (s.ph, u.ph) ∈ transfers := by
  cases hm with
  | reset hr' => simp [hr] at hr'
  | stay | holdCount | waitCount => exact .inl rfl
  | start _ _ hb => rcases busy_eq_false_iff.1 hb with hp | hp | hp <;> simp [hp, transfers]
  | wake _ _ hp | release _ _ hp | sample _ _ _ _ _ hp | badPulse _ _ _ _ hp | validFrame _ _ hp
  | badFrame _ _ hp => simp [hp, transfers]
  | satisfied p _ _ _ hp =>
    rcases hp with ⟨hp, -, rfl⟩ | ⟨hp, -, rfl⟩ | ⟨hp, -, rfl⟩ | ⟨hp, -, rfl⟩ <;> simp [hp, transfers]
  | expired k _ _ _ hp =>
    rcases hp with ⟨hp, -⟩ | ⟨hp, -⟩ | ⟨hp, -⟩ | ⟨hp, -⟩ | ⟨hp, -⟩ <;> simp [hp, transfers]
  | gapEnd _ _ hp => split <;> simp [hp, transfers]

/-- Only a move that stays in its phase leaves `TMR` running (R25). -/
theorem Move.tmr_of_change {s u : State} (hm : Move s u) (hp : u.ph ≠ s.ph) : u.tmr = 0 := by
  cases hm with
  | stay | holdCount | waitCount => exact absurd rfl hp
  | _ => rfl

/-- Settles O52: each move of a tick is in the table, and the end of the tick changes no register. -/
theorem transfersOfControl : Obligations.TransfersOfControl := by
  intro s t hstep
  refine ⟨fun hr => ?_, ?_⟩
  · rw [step_of_rst hr] at hstep
    exact next_eq_next.1 hstep ▸ rfl
  · obtain ⟨u, hmove, rfl⟩ := step_move hstep
    exact ⟨hmove.transfer, hmove.tmr_of_change⟩

end Sys2Proof.Machine
end

section
/-! PROOFS. Independence of attempts (R191): a tick depends on the registers, the configuration and the sampled
inputs only, so two cores with equal registers that get the same inputs run in step. -/

namespace Sys2Proof.Machine

/-- The answer `a` with the registers as they are, in the environment of `e`. -/
def answerIn (e : State) (a : Answer) : Answer := andThen a fun t => .next (inEnvironment e t)

/-! ### The shared operations in another environment -/

section
variable {e s : State}

theorem hold_inEnvironment {bound : Nat} {k : State → Answer}
    (hk : k (inEnvironment e s) = answerIn e (k s)) :
    hold bound k (inEnvironment e s) = answerIn e (hold bound k s) := by
  by_cases he : elapsed s = bound
  · rwa [hold_last he, hold_last (s := inEnvironment e s) he]
  · rw [hold_count he, hold_count (s := inEnvironment e s) he]
    rfl

theorem lineWrite_inEnvironment (v : Level) :
    lineWrite v (inEnvironment e s) = answerIn e (lineWrite v s) := by
  cases ho : s.lineOe with
  | true => rw [lineWrite_of_output v ho, lineWrite_of_output (s := inEnvironment e s) v ho]; rfl
  | false => rw [lineWrite_of_input v ho, lineWrite_of_input (s := inEnvironment e s) v ho]; rfl

theorem boundedWait_inEnvironment {w : Level} {bound : Nat} {kind : FailKind} {k : State → Answer}
    (hl : lineIn e = lineIn s) (hk : k (inEnvironment e s) = answerIn e (k s)) :
    boundedWait w bound kind k (inEnvironment e s) = answerIn e (boundedWait w bound kind k s) := by
  have hline : lineIn (inEnvironment e s) = lineIn s := hl
  have hoe : (inEnvironment e s).lineOe = s.lineOe := rfl
  have helapsed : elapsed (inEnvironment e s) = elapsed s := rfl
  simp only [boundedWait, lineRead, hline, hoe, helapsed, hk]
  split_ifs <;> rfl

theorem shiftBit_inEnvironment (b : Bool) : shiftBit b (inEnvironment e s) = answerIn e (shiftBit b s) := by
  have hbyte : (inEnvironment e s).f.get? (frameIndex (inEnvironment e s)) = s.f.get? (frameIndex s) := rfl
  unfold shiftBit
  rw [hbyte]
  cases s.f.get? (frameIndex s) <;> rfl

theorem consumeSample_inEnvironment (o : SampleOutcome) :
    consumeSample o (inEnvironment e s) = answerIn e (consumeSample o s) := by
  cases o with
  | zero | one =>
    simp only [consumeSample, shiftBit_inEnvironment]
    cases shiftBit _ s <;> rfl
  | error | timedOut => rfl

theorem validateFrame_inEnvironment (f : Frame) :
    validateFrame f (inEnvironment e s) = answerIn e (validateFrame f s) := by
  unfold validateFrame
  split <;> rfl

theorem execDecode_inEnvironment : execDecode (inEnvironment e s) = answerIn e (execDecode s) := by
  have hbusy : busy (inEnvironment e s) = busy s := rfl
  unfold execDecode
  rw [hbusy]
  split <;> rfl

/-! ### A tick in another environment -/

/-- The rule of the phase reads the environment at most for the level of the line. -/
theorem execNop_inEnvironment (hl : lineIn e = lineIn s) :
    execNop (inEnvironment e s) = answerIn e (execNop s) := by
  have hph : (inEnvironment e s).ph = s.ph := rfl
  simp only [execNop, hph]
  cases s.ph with
  | idle | done | failed => rfl
  | hsLow =>
    refine hold_inEnvironment ?_
    rw [lineWrite_inEnvironment]
    cases lineWrite true s <;> rfl
  | hsRel | smGap => exact hold_inEnvironment rfl
  | hsAck1 | hsAck2 | smWaitLow | smWaitHigh => exact boundedWait_inEnvironment hl rfl
  | smMeasure => exact boundedWait_inEnvironment hl (consumeSample_inEnvironment _)
  | validate => exact validateFrame_inEnvironment _

/-- A command depends on the environment through the sampled inputs only. -/
theorem exec_fetch_inEnvironment (hi : currentInput e = currentInput s) :
    exec (fetch (inEnvironment e s)) (inEnvironment e s) = answerIn e (exec (fetch s) s) := by
  have hfetch : fetch (inEnvironment e s) = fetch s := congrArg (fun i : Inputs => command i.rst i.start) hi
  rw [hfetch]
  cases hr : (currentInput s).rst with
  | true => rw [fetch_of_rst hr]; rfl
  | false =>
    cases hs : (currentInput s).start with
    | true => rw [fetch_of_start hr hs]; exact execDecode_inEnvironment
    | false => rw [fetch_of_quiet hr hs]; exact execNop_inEnvironment (congrArg Inputs.lineIn hi)

end

/-- One tick of two cores with equal registers and equal inputs. -/
theorem step_sameRegisters {s r t : State} (hsame : sameRegisters s r) (hi : currentInput s = currentInput r)
    (h : step s = .next t) : ∃ u, step r = .next u ∧ sameRegisters t u := by
  obtain ⟨v, hv, rfl⟩ := step_eq_next.1 h
  have hexec : exec (fetch r) r = .next (inEnvironment r v) := by
    rw [hsame.symm.eq_inEnvironment]
    exact (exec_fetch_inEnvironment hi.symm).trans (congrArg (answerIn r) hv)
  exact ⟨_, step_eq_next.2 ⟨_, hexec, rfl⟩, sameRegisters.refl v⟩

/-- The runs of two cores with equal registers and equal inputs. -/
theorem runsTo_sameRegisters {n : Nat} {s r t : State} (hsame : sameRegisters s r)
    (hup : ∀ k, k < n → upcoming s k = upcoming r k) (h : RunsTo n s t) :
    ∃ u, RunsTo n r u ∧ sameRegisters t u := by
  induction n generalizing s r with
  | zero => exact ⟨r, runsTo_zero.2 rfl, runsTo_zero.1 h ▸ hsame⟩
  | succ n ih =>
    obtain ⟨s', hs', hrun⟩ := runsTo_succ.1 h
    obtain ⟨r', hr', hsame'⟩ := step_sameRegisters hsame (hup 0 n.succ_pos) hs'
    have hup' : ∀ k, k < n → upcoming s' k = upcoming r' k := fun k hk => by
      rw [upcoming_step hs', upcoming_step hr']
      exact hup (k + 1) (Nat.succ_lt_succ hk)
    obtain ⟨u, hu, hsameu⟩ := ih hsame' hup' hrun
    exact ⟨u, runsTo_succ.2 ⟨r', hr', hu⟩, hsameu⟩

/-- An accepted `DECODE` writes every register, so nothing but the configuration is left to differ (R183). -/
theorem sameRegisters_of_accepted {s r : State} (hcfg : s.cfg = r.cfg) :
    sameRegisters (endTick (beginAttempt { lineDir .output s with lineOut := false }))
      (endTick (beginAttempt { lineDir .output r with lineOut := false })) :=
  ⟨rfl, rfl, rfl, rfl, rfl, rfl, rfl, rfl, rfl, hcfg⟩

/-- Settles O55: equal registers after the accepting tick, and from there the two cores run in step. -/
theorem attemptsAreIndependent : Obligations.AttemptsAreIndependent := by
  intro s₁ s₂ n hb₁ hb₂ hcfg hr hs hup t₁ hrun
  have hi : currentInput s₁ = currentInput s₂ := hup 0 n.succ_pos
  have h₁ := step_of_accepted hb₁ hr hs
  have h₂ := step_of_accepted hb₂ (hi ▸ hr) (hi ▸ hs)
  obtain ⟨u, hu, hrest⟩ := runsTo_succ.1 hrun
  cases h₁.symm.trans hu
  obtain ⟨t₂, ht₂, hsame⟩ := runsTo_sameRegisters (sameRegisters_of_accepted hcfg) (fun k hk => by
    rw [upcoming_step h₁, upcoming_step h₂]
    exact hup (k + 1) (Nat.succ_lt_succ hk)) hrest
  exact ⟨t₂, runsTo_succ.2 ⟨_, h₂, ht₂⟩, hsame⟩

end Sys2Proof.Machine
end

section
/-! PROOFS. The line operations (R210 to R216): each in the mode in which it is valid and refused in the other,
and the ones that a tick issues, which make the tick's change of the line's registers. -/

namespace Sys2Proof.Machine

/-! ### The operations and their modes (R210 to R214, U2) -/

theorem execReadLevel_of_input {s : State} (ho : s.lineOe = false) :
    execReadLevel s = .next { s with value := .level (lineIn s) } :=
  lineRead_of_input _ ho

theorem execReadLevel_of_output {s : State} (ho : s.lineOe = true) :
    execReadLevel s = .refused .readInOutputMode :=
  lineRead_of_output _ ho

/-- Settles O41: the direction is always written, the level is read and written in one mode each. -/
theorem lineOperationsActOnThePorts : Obligations.LineOperationsActOnThePorts := fun _ =>
  ⟨rfl, rfl,
    fun ho => ⟨lineWrite_of_output false ho, lineWrite_of_output true ho, execReadLevel_of_output ho⟩,
    fun ho => ⟨execReadLevel_of_input ho, lineWrite_of_input false ho, lineWrite_of_input true ho⟩⟩

/-- The phases that read the line are the bounded waits (R22, R120). -/
theorem exists_waitOf_of_readsLine (c : Params) {p : Phase} (h : readsLine p = true) :
    ∃ w b kind, waitOf c p = some (w, b, kind) := by
  cases p with
  | hsAck1 | hsAck2 | smWaitLow | smWaitHigh | smMeasure => exact ⟨_, _, _, rfl⟩
  | _ => cases h

theorem exec_reading_of_output {s : State} {p : Phase} (hp : readsLine p = true) (ho : s.lineOe = true) :
    exec p.instr s = .refused .readInOutputMode := by
  obtain ⟨w, b, kind, hw⟩ := exists_waitOf_of_readsLine s.cfg hp
  obtain ⟨k, hexec, -⟩ := exec_eq_boundedWait hw
  exact hexec.trans (lineRead_of_output _ ho)

theorem execHsLow_last_of_input {s : State} (he : elapsed s = s.cfg.tWake) (ho : s.lineOe = false) :
    execHsLow s = .refused .writeInInputMode := by
  rw [execHsLow, hold_last he, lineWrite_of_input true ho, andThen_of_refused]

/-- Settles O29: a full frame has no byte left, and a line operation in the wrong mode is refused with its phase. -/
theorem statesOutsideTheMachineStop : Obligations.StatesOutsideTheMachineStop := fun _ =>
  ⟨fun b hfull => shiftBit_of_full b hfull, exec_reading_of_output, execHsLow_last_of_input⟩

/-! ### The operations that a tick issues (R215) -/

/-- A core that is in no attempt does not read the line (R22). -/
theorem readsLine_of_not_busy {s : State} (hb : busy s = false) : readsLine s.ph = false := by
  rcases busy_eq_false_iff.1 hb with hp | hp | hp <;> rw [hp, readsLine]

section
variable {s : State} (hr : (currentInput s).rst = false)
include hr

theorem lineOpsOfTick_of_accepted (hs : (currentInput s).start = true) (hb : busy s = false) :
    lineOpsOfTick s = [.setdirOut, .writeLow] := by
  simp [lineOpsOfTick, hr, hs, hb]

theorem lineOpsOfTick_of_stay (hs : (currentInput s).start = false) (hb : busy s = false) :
    lineOpsOfTick s = [] := by
  simp [lineOpsOfTick, hr, hs, hb]

theorem lineOpsOfTick_of_reads (hp : readsLine s.ph = true) : lineOpsOfTick s = [.readLevel] := by
  have hb : busy s = true := by
    rw [← Bool.not_eq_false]
    intro hb
    simp [readsLine_of_not_busy hb] at hp
  simp [lineOpsOfTick, hr, hb, hp]

theorem lineOpsOfTick_of_hsLow (hp : s.ph = .hsLow) :
    lineOpsOfTick s = if elapsed s = s.cfg.tWake then [.writeHigh] else [] := by
  simp [lineOpsOfTick, hr, hp, busy, idle, done, failed, readsLine]

theorem lineOpsOfTick_of_hsRel (hp : s.ph = .hsRel) :
    lineOpsOfTick s = if elapsed s = s.cfg.tRelease then [.setdirIn] else [] := by
  simp [lineOpsOfTick, hr, hp, busy, idle, done, failed, readsLine]

theorem lineOpsOfTick_of_silent (hp : s.ph = .smGap ∨ s.ph = .validate) : lineOpsOfTick s = [] := by
  rcases hp with hp | hp <;> simp [lineOpsOfTick, hr, hp, busy, idle, done, failed, readsLine]

end

/-! ### A tick without `rst`, seen from the line -/

/-- Both line registers of `u` are those of `s`, and `u` begins none of the phases that a write of the line or of
its direction begins. -/
structure LeavesLine (s u : State) : Prop where
  lineOe : u.lineOe = s.lineOe
  lineOut : u.lineOut = s.lineOut
  hsLow : u.ph = .hsLow → s.ph = .hsLow
  hsRel : u.ph = .hsRel → s.ph = .hsRel
  hsAck1 : u.ph = .hsAck1 → s.ph = .hsAck1

theorem LeavesLine.of_same_phase {s u : State} (ho : u.lineOe = s.lineOe) (hl : u.lineOut = s.lineOut)
    (hp : u.ph = s.ph) : LeavesLine s u :=
  ⟨ho, hl, hp.symm.trans, hp.symm.trans, hp.symm.trans⟩

theorem LeavesLine.of_later_phase {s u : State} (ho : u.lineOe = s.lineOe) (hl : u.lineOut = s.lineOut)
    (hp : u.ph ≠ .hsLow ∧ u.ph ≠ .hsRel ∧ u.ph ≠ .hsAck1) : LeavesLine s u :=
  ⟨ho, hl, fun h => absurd h hp.1, fun h => absurd h hp.2.1, fun h => absurd h hp.2.2⟩

/-- The five ways in which a tick without `rst` acts on the line, with the operations that each issues (R215): from
the registers of `s` to those of `u`. -/
inductive LineMove (s u : State) : List LineOp → Prop where
  | accept (hs : busy s = false) (hp : u.ph = .hsLow) (ho : u.lineOe = true) (hl : u.lineOut = false) :
      LineMove s u [.setdirOut, .writeLow]
  | wake (hs : s.ph = .hsLow) (hp : u.ph = .hsRel) (hso : s.lineOe = true) (ho : u.lineOe = true)
      (hl : u.lineOut = true) : LineMove s u [.writeHigh]
  | release (hs : s.ph = .hsRel) (hp : u.ph = .hsAck1) (ho : u.lineOe = false) (hl : u.lineOut = s.lineOut) :
      LineMove s u [.setdirIn]
  | read (hs : readsLine s.ph = true) (hso : s.lineOe = false) (h : LeavesLine s u) : LineMove s u [.readLevel]
  | silent (hs : readsLine s.ph = false) (h : LeavesLine s u) : LineMove s u []

theorem LineMove.of_read {s u : State} (hr : (currentInput s).rst = false) (hread : readsLine s.ph = true)
    (ho : s.lineOe = false) (h : LeavesLine s u) : LineMove s u (lineOpsOfTick s) :=
  lineOpsOfTick_of_reads hr hread ▸ .read hread ho h

/-- Each move of a tick without `rst` acts on the line by the operations that the tick issues. -/
theorem Move.lineMove {s u : State} (hm : Move s u) (hr : (currentInput s).rst = false) :
    LineMove s u (lineOpsOfTick s) := by
  cases hm with
  | reset hr' => simp [hr] at hr'
  | start _ hs hb =>
    rw [lineOpsOfTick_of_accepted hr hs hb]
    exact .accept hb rfl rfl rfl
  | stay _ hs hb =>
    rw [lineOpsOfTick_of_stay hr hs hb]
    exact .silent (readsLine_of_not_busy hb) (.of_same_phase rfl rfl rfl)
  | holdCount _ _ hp =>
    have hleaves : LeavesLine s (countTick s) := .of_same_phase rfl rfl rfl
    rcases hp with ⟨hp, he⟩ | ⟨hp, he⟩ | ⟨hp, -⟩
    · rw [lineOpsOfTick_of_hsLow hr hp, if_neg he]
      exact .silent (by rw [hp, readsLine]) hleaves
    · rw [lineOpsOfTick_of_hsRel hr hp, if_neg he]
      exact .silent (by rw [hp, readsLine]) hleaves
    · rw [lineOpsOfTick_of_silent hr (.inl hp)]
      exact .silent (by rw [hp, readsLine]) hleaves
  | wake _ _ hp he ho =>
    rw [lineOpsOfTick_of_hsLow hr hp, if_pos he]
    exact .wake hp rfl ho ho rfl
  | release _ _ hp he =>
    rw [lineOpsOfTick_of_hsRel hr hp, if_pos he]
    exact .release hp rfl rfl rfl
  | waitCount _ _ ho hp =>
    refine .of_read hr ?_ ho (.of_same_phase rfl rfl rfl)
    rcases hp with ⟨hp, -⟩ | ⟨hp, -⟩ | ⟨hp, -⟩ | ⟨hp, -⟩ | ⟨hp, -⟩ <;> rw [hp, readsLine]
  | satisfied p _ _ ho hp =>
    rcases hp with ⟨hp, -, rfl⟩ | ⟨hp, -, rfl⟩ | ⟨hp, -, rfl⟩ | ⟨hp, -, rfl⟩ <;>
      exact .of_read hr (by rw [hp, readsLine]) ho (.of_later_phase rfl rfl (by simp))
  | expired k _ _ ho hp =>
    refine .of_read hr ?_ ho (.of_later_phase rfl rfl (by simp))
    rcases hp with ⟨hp, -⟩ | ⟨hp, -⟩ | ⟨hp, -⟩ | ⟨hp, -⟩ | ⟨hp, -⟩ <;> rw [hp, readsLine]
  | sample _ _ _ _ ho hp | badPulse _ _ _ ho hp =>
    exact .of_read hr (by rw [hp, readsLine]) ho (.of_later_phase rfl rfl (by simp))
  | gapEnd _ _ hp =>
    rw [lineOpsOfTick_of_silent hr (.inl hp)]
    exact .silent (by rw [hp, readsLine]) (.of_later_phase rfl rfl (by split <;> simp))
  | validFrame _ _ hp | badFrame _ _ hp =>
    rw [lineOpsOfTick_of_silent hr (.inr hp)]
    exact .silent (by rw [hp, readsLine]) (.of_later_phase rfl rfl (by simp))

section
variable {s u : State} {ops : List LineOp} (h : LineMove s u ops)
include h

/-- The operations are valid one after another (R216), and they are all that happens to the line's registers. -/
theorem LineMove.runLineOps_answers :
    ∃ v, runLineOps ops s = .next v ∧ u.lineOe = v.lineOe ∧ u.lineOut = v.lineOut := by
  cases h with
  | accept _ _ ho hl => exact ⟨_, rfl, ho, hl⟩
  | wake _ _ hso ho hl => exact ⟨_, lineWrite_of_output true hso, ho.trans hso.symm, hl⟩
  | release _ _ ho hl => exact ⟨_, rfl, ho, hl⟩
  | read _ hso h => exact ⟨_, execReadLevel_of_input hso, h.lineOe, h.lineOut⟩
  | silent _ h => exact ⟨_, rfl, h.lineOe, h.lineOut⟩

theorem LineMove.readLevel_mem_iff : .readLevel ∈ ops ↔ readsLine s.ph = true := by
  cases h with
  | accept hs => simp [readsLine_of_not_busy hs]
  | wake hs | release hs => simp [hs, readsLine]
  | read hs | silent hs => simp [hs]

/-- Both operations of an accepted `DECODE` (R183). -/
theorem LineMove.accept_mem_iff :
    (.setdirOut ∈ ops ↔ u.ph = .hsLow ∧ s.ph ≠ .hsLow) ∧ (.writeLow ∈ ops ↔ u.ph = .hsLow ∧ s.ph ≠ .hsLow) := by
  cases h with
  | accept hs hp => rcases busy_eq_false_iff.1 hs with hq | hq | hq <;> simp [hp, hq]
  | wake _ hp | release _ hp => simp [hp]
  | read _ _ h | silent _ h => simpa using h.hsLow

theorem LineMove.writeHigh_mem_iff : .writeHigh ∈ ops ↔ u.ph = .hsRel ∧ s.ph ≠ .hsRel := by
  cases h with
  | wake hs hp => simp [hs, hp]
  | accept _ hp | release _ hp => simp [hp]
  | read _ _ h | silent _ h => simpa using h.hsRel

theorem LineMove.setdirIn_mem_iff : .setdirIn ∈ ops ↔ u.ph = .hsAck1 ∧ s.ph ≠ .hsAck1 := by
  cases h with
  | release hs hp => simp [hs, hp]
  | accept _ hp | wake _ hp => simp [hp]
  | read _ _ h | silent _ h => simpa using h.hsAck1

theorem LineMove.output_of_write (hw : .writeLow ∈ ops ∨ .writeHigh ∈ ops) : u.lineOe = true := by
  cases h with
  | accept _ _ ho | wake _ _ _ ho => exact ho
  | release | read | silent => simp at hw

end

/-- Settles O42: by the way in which the tick's move acts on the line. -/
theorem ticksIssueTheirLineOperations : Obligations.TicksIssueTheirLineOperations := by
  intro s t _ hr hstep
  obtain ⟨u, hmove, rfl⟩ := step_move hstep
  have hline := hmove.lineMove hr
  exact ⟨hline.runLineOps_answers, hline.readLevel_mem_iff, hline.accept_mem_iff.1, hline.accept_mem_iff.2,
    hline.writeHigh_mem_iff, hline.setdirIn_mem_iff, hline.output_of_write⟩

end Sys2Proof.Machine
end

section
/-! PROOFS. The failures (R230 to R237): what raising one writes, the cause of each kind, that a reading comes only
from a valid frame, and the tick at which a line without a sensor fails. -/

namespace Sys2Proof.Machine

/-! ### What a failure writes (R236) -/

/-- Settles O38: every form of `FAIL` is `raiseFail` with its kind. -/
theorem failWritesItsRegisters : Obligations.FailWritesItsRegisters := by
  refine fun s => ⟨fun k => rfl, rfl, rfl, rfl, rfl, rfl, fun k t h => ?_⟩
  obtain rfl : t = raiseFail k s := next_eq_next.1 h
  exact ⟨rfl, rfl, outputs_err_of_eq rfl⟩

/-! ### The cause of each kind (R231 to R235) -/

/-- What the coming tick of a running attempt must find to raise a failure of this kind. -/
def FailureCause (s : State) : FailKind → Prop
  | .noResponse => s.ph = .hsAck1 ∧ lineIn s = true ∧ elapsed s = s.cfg.tAck
  | .protocolViolation => s.ph = .hsAck2 ∧ lineIn s = false ∧ elapsed s = s.cfg.tAck
  | .timeout => elapsed s = s.cfg.tTimeout ∧
      (s.ph = .smWaitLow ∧ lineIn s = true ∨ s.ph = .smWaitHigh ∧ lineIn s = false ∨
        s.ph = .smMeasure ∧ lineIn s = true)
  | .measurement => s.ph = .smMeasure ∧ lineIn s = false ∧ (elapsed s ≤ 25 ∨ 29 ≤ elapsed s ∧ elapsed s ≤ 69)
  | .checksumError => s.ph = .validate ∧
      (s.f.f0.toNat + s.f.f1.toNat + s.f.f2.toNat + s.f.f3.toNat) % 256 ≠ s.f.f4.toNat

theorem checksumOk_eq_false {f : Frame} :
    checksumOk f = false ↔ (f.f0.toNat + f.f1.toNat + f.f2.toNat + f.f3.toNat) % 256 ≠ f.f4.toNat := by
  rw [← Bool.not_eq_true, checksumOk_eq_true]

theorem classify_ne_timedOut {c : Params} {d : Nat} (h : c.Conforming) (hd : d ≤ 100000) :
    classify c d ≠ .timedOut := by
  rw [classify_eq_bands h]
  split_ifs <;> simp

/-- No phase counts past the longest bound (R40 (h)). -/
theorem Invariant.elapsed_le {s : State} (h : Invariant s) : elapsed s ≤ 100000 :=
  h.timer.trans_le (tmrBound_le h.conforming s.ph)

section
variable {s : State} (h : Invariant s)
include h

/-- A phase whose last permitted sample reads the other level raises the failure of its wait. -/
theorem Invariant.exec_of_expired {w : Level} {b : Nat} {k : FailKind} (hw : waitOf s.cfg s.ph = some (w, b, k))
    (hl : lineIn s = !w) (he : elapsed s = b) : exec s.ph.instr s = .next (raiseFail k s) :=
  exec_wait_expired hw (h.readable (readsLine_of_waitOf hw)) hl he

/-- Where the cause of a kind holds, the rule of the phase raises that failure. -/
theorem Invariant.exec_of_failureCause {k : FailKind} (hc : FailureCause s k) :
    exec s.ph.instr s = .next (raiseFail k s) := by
  cases k with
  | noResponse =>
    obtain ⟨hp, hl, he⟩ := hc
    exact h.exec_of_expired (w := false) (by rw [hp]; rfl) hl he
  | protocolViolation =>
    obtain ⟨hp, hl, he⟩ := hc
    exact h.exec_of_expired (w := true) (by rw [hp]; rfl) hl he
  | timeout =>
    obtain ⟨he, ⟨hp, hl⟩ | ⟨hp, hl⟩ | ⟨hp, hl⟩⟩ := hc
    · exact h.exec_of_expired (w := false) (by rw [hp]; rfl) hl he
    · exact h.exec_of_expired (w := true) (by rw [hp]; rfl) hl he
    · exact h.exec_of_expired (w := false) (by rw [hp]; rfl) hl he
  | measurement =>
    obtain ⟨hp, hl, hband⟩ := hc
    have ho : s.lineOe = false := h.readable (by rw [hp]; rfl)
    rw [hp, Phase.instr, exec_smMeasure_of_low ho hl, classify_eq_error h.conforming hband]
    rfl
  | checksumError =>
    obtain ⟨hp, hsum⟩ := hc
    rw [hp]
    exact validateFrame_eq_next.2 (.inr ⟨checksumOk_eq_false.2 hsum, rfl⟩)

/-- A move of a running attempt that leaves a failure kind found the cause of that kind. -/
theorem Invariant.failureCause_of_move {u : State} {k : FailKind} (hm : Move s u) (hb : busy s = true)
    (hr : (currentInput s).rst = false) (hk : u.err = some k) : FailureCause s k := by
  have hnone : s.err = none := by
    simpa [(busy_eq_true_iff.1 hb).2.2] using h.errKind
  have hkept : s.err ≠ some k := by simp [hnone]
  cases hm with
  | reset hr' => simp [hr] at hr'
  | start _ _ hb' | stay _ _ hb' => simp [hb] at hb'
  | holdCount | wake | release | waitCount | satisfied | sample | gapEnd | validFrame => exact absurd hk hkept
  | expired j _ _ _ hp =>
    obtain rfl : j = k := Option.some.inj hk
    rcases hp with ⟨hp, hl, he, rfl⟩ | ⟨hp, hl, he, rfl⟩ | ⟨hp, hl, he, rfl⟩ | ⟨hp, hl, he, rfl⟩ | ⟨hp, hl, he, rfl⟩
    · exact ⟨hp, hl, he⟩
    · exact ⟨hp, hl, he⟩
    · exact ⟨he, .inl ⟨hp, hl⟩⟩
    · exact ⟨he, .inr (.inl ⟨hp, hl⟩)⟩
    · exact ⟨he, .inr (.inr ⟨hp, hl⟩)⟩
  | badPulse j _ _ _ hp hl hc =>
    obtain rfl : j = k := Option.some.inj hk
    obtain ⟨hc, rfl⟩ | ⟨hc, -⟩ := hc
    · obtain ⟨-, -, hbands⟩ :=
        classifyFollowsTheBands.1 s.cfg (elapsed s) h.conforming (Nat.succ_pos _) h.elapsed_le
      exact ⟨hp, hl, hbands.1 hc⟩
    · exact absurd hc (classify_ne_timedOut h.conforming h.elapsed_le)
  | badFrame _ _ hp hc =>
    obtain rfl : .checksumError = k := Option.some.inj hk
    exact ⟨hp, checksumOk_eq_false.1 hc⟩

/-- A tick of a running attempt ends with a failure kind exactly where the cause of that kind holds. -/
theorem Invariant.err_eq_some_iff {t : State} (hb : busy s = true) (hr : (currentInput s).rst = false)
    (hstep : step s = .next t) (k : FailKind) : t.err = some k ↔ FailureCause s k := by
  have hs : (currentInput s).start = false := Bool.eq_false_iff.2 fun hs => by
    rw [step_of_start_while_busy hb hr hs] at hstep
    cases hstep
  constructor
  · intro hk
    obtain ⟨u, hmove, rfl⟩ := step_move hstep
    exact h.failureCause_of_move hmove hb hr hk
  · intro hc
    have hnop : execNop s = .next (raiseFail k s) := (execNop_eq_phase s).trans (h.exec_of_failureCause hc)
    rw [step_of_nop hr hs hnop] at hstep
    exact next_eq_next.1 hstep ▸ rfl

end

/-- Settles O39: the five causes are the five clauses. -/
theorem eachFailureHasItsCause : Obligations.EachFailureHasItsCause := fun _ _ h hb hr hstep =>
  have hcause := h.err_eq_some_iff hb hr hstep
  ⟨hcause .noResponse, hcause .protocolViolation, hcause .timeout, hcause .measurement, hcause .checksumError⟩

/-! ### A reading only from a valid frame (R237) -/

/-- The one move that enters `DONE` is that of `VALIDATE` on a valid frame. -/
theorem Move.eq_of_enters_done {s u : State} (hm : Move s u) (hu : u.ph = .done) (hs : s.ph ≠ .done) :
    s.ph = .validate ∧ checksumOk s.f = true ∧
      u = clearTransient { s with hum := convHum s.f, temp := convTemp s.f, ph := .done } := by
  cases hm with
  | validFrame _ _ hp hc => exact ⟨hp, hc, rfl⟩
  | stay | holdCount | waitCount => exact absurd hu hs
  | reset | start | wake | release | expired | sample | badPulse | badFrame => cases hu
  | satisfied p _ _ _ hp => rcases hp with ⟨-, -, rfl⟩ | ⟨-, -, rfl⟩ | ⟨-, -, rfl⟩ | ⟨-, -, rfl⟩ <;> cases hu
  | gapEnd => rw [enterPhase_ph] at hu; split at hu <;> cases hu

/-- A move that stays in `DONE` leaves the reading. -/
theorem Move.reading_of_done {s u : State} (hm : Move s u) (hu : u.ph = .done) (hs : s.ph = .done) :
    u.hum = s.hum ∧ u.temp = s.temp := by
  cases hm with
  | reset | start => cases hu
  | validFrame _ _ hp => rw [hs] at hp; cases hp
  | _ => exact ⟨rfl, rfl⟩

/-- In `FAILED` the caller sees the failure's kind and no reading (R34, R40 (e)). -/
theorem Invariant.failed_shows_its_kind {t : State} (h : Invariant t) (hf : t.ph = .failed) :
    (outputs t).done = false ∧ ∃ k, t.err = some k ∧ result t = .failed k := by
  obtain ⟨k, hk⟩ := Option.ne_none_iff_exists'.1 (h.errKind.2 hf)
  refine ⟨Bool.eq_false_iff.2 fun hd => ?_, k, hk, result_of_failed hf hk⟩
  simp [done_eq_true_iff.1 hd] at hf

/-- Settles O40: by the move of the tick, and by the invariant after it. -/
theorem readingOnlyFromAValidFrame : Obligations.ReadingOnlyFromAValidFrame := by
  intro s t h hstep
  have hinv := everyTickKeepsTheInvariant s t h hstep
  obtain ⟨u, hmove, rfl⟩ := step_move hstep
  refine ⟨fun hd hs => ?_, hinv.failed_shows_its_kind, hmove.reading_of_done⟩
  obtain ⟨hp, hc, rfl⟩ := hmove.eq_of_enters_done hd hs
  exact ⟨hp, hc, result_of_done rfl⟩

/-! ### A line that is never pulled low (R231) -/

/-- A hold that begins at tick `m` is still counting before tick `n`. -/
theorem RegistersAfter.hold_until {m n : Nat} {s r : State} (h : RegistersAfter m s r) (hz : r.tmr = 0)
    (hconf : r.cfg.Conforming) (hp : Holds r.ph) (hmn : m ≤ n) (hn : n < m + tmrBound r.cfg r.ph)
    (hq : QuietFor n s) : RegistersAfter n s (countedTo (n - m) r) := by
  obtain ⟨j, rfl⟩ := Nat.exists_eq_add_of_le hmn
  rw [Nat.add_sub_cancel_left]
  exact h.hold_counts hz hconf hp hq (by omega)

/-- The registers that `HS_LOW` leaves at its last tick (R101): the line driven high, `HS_REL` begun. -/
def atRelease (r : State) : State := enterPhase .hsRel { r with lineOut := true }

/-- The registers after both holds (R102): the line released, and the acknowledgment window begun. -/
def atWindow (r : State) : State := enterPhase .hsAck1 (lineDir .input (atRelease r))

section
variable {r : State} (hconf : r.cfg.Conforming) (hp : r.ph = .hsLow) (hz : r.tmr = 0) (ho : r.lineOe = true)
include hconf hp hz ho

theorem registersAfter_atRelease (hq : QuietFor r.cfg.tWake r) :
    RegistersAfter r.cfg.tWake r (atRelease r) := by
  rw [← Nat.zero_add r.cfg.tWake] at hq ⊢
  exact (RegistersAfter.zero r).hsLow_ends hz hconf hp ho hq

theorem registersAfter_atWindow (hq : QuietFor (r.cfg.tWake + r.cfg.tRelease) r) :
    RegistersAfter (r.cfg.tWake + r.cfg.tRelease) r (atWindow r) :=
  (registersAfter_atRelease hconf hp hz ho (hq.mono (Nat.le_add_right _ _))).hsRel_ends rfl hconf rfl hq

omit hp hz ho in
/-- The acknowledgment window opens with the switch to `Input` mode. -/
theorem waitBegins_atWindow : WaitBegins false r.cfg.tAck .noResponse (atWindow r) :=
  ⟨hconf, rfl, rfl, rfl⟩

/-- While the window has not passed, a line that stays high in it leaves the core handshaking with no bit in. -/
theorem handshaking_before_window_closes (hb : r.bitcnt = 0) {n : Nat}
    (hn : n < r.cfg.tWake + r.cfg.tRelease + r.cfg.tAck) (hq : QuietFor n r)
    (hline : LineBetween true (r.cfg.tWake + r.cfg.tRelease) n r) :
    ∃ t, RunsTo n r t ∧ docState t.ph = .handshaking ∧ t.bitcnt = 0 := by
  have hcounted : ∃ k q, RegistersAfter n r (countedTo k q) ∧ docState q.ph = .handshaking ∧ q.bitcnt = 0 := by
    rcases Nat.lt_or_ge n r.cfg.tWake with hlow | hlow
    · have hbound : n < 0 + tmrBound r.cfg r.ph := by rw [hp]; simpa [tmrBound] using hlow
      exact ⟨_, r, (RegistersAfter.zero r).hold_until hz hconf (.inl hp) n.zero_le hbound hq, by rw [hp]; rfl, hb⟩
    · rcases Nat.lt_or_ge n (r.cfg.tWake + r.cfg.tRelease) with hrel | hrel
      · have hstart := registersAfter_atRelease hconf hp hz ho (hq.mono hlow)
        exact ⟨_, atRelease r, hstart.hold_until rfl hconf (.inr (.inl rfl)) hlow hrel hq, rfl, hb⟩
      · have hstart := registersAfter_atWindow hconf hp hz ho (hq.mono hrel)
        exact ⟨_, atWindow r, hstart.wait_until (waitBegins_atWindow hconf) hrel hn hq hline, rfl, hb⟩
  obtain ⟨k, q, ⟨t, hrun, hsame⟩, hdoc, hbits⟩ := hcounted
  obtain ⟨hph, -, hcount, -⟩ := hsame
  exact ⟨t, hrun, (congrArg docState hph).trans hdoc, hcount.trans hbits⟩

/-- A line that stays high for the whole window ends the attempt in `NoResponse`. -/
theorem noResponse_when_window_closes (hq : QuietFor (r.cfg.tWake + r.cfg.tRelease + r.cfg.tAck) r)
    (hline : LineBetween true (r.cfg.tWake + r.cfg.tRelease) (r.cfg.tWake + r.cfg.tRelease + r.cfg.tAck) r) :
    RegistersAfter (r.cfg.tWake + r.cfg.tRelease + r.cfg.tAck) r (raiseFail .noResponse (atWindow r)) :=
  (registersAfter_atWindow hconf hp hz ho (hq.mono (Nat.le_add_right _ _))).wait_expires
    (waitBegins_atWindow hconf) hq fun k hk => hline _ (by omega) (by omega)

end

/-- The state after the tick of an accepted `DECODE` (R183). -/
def attemptStart (s : State) : State := endTick (beginAttempt { lineDir .output s with lineOut := false })

/-- Settles O16: the two holds and the expired window, counted from the tick after the accepting one. -/
theorem noResponseAtItsTick : Obligations.NoResponseAtItsTick := by
  intro s hconf hb hr hs hquiet hhigh
  have hstep : step s = .next (attemptStart s) := step_of_accepted hb hr hs
  have hq : QuietFor (s.cfg.tWake + s.cfg.tRelease + s.cfg.tAck) (attemptStart s) := fun k hk => by
    rw [upcoming_step hstep]
    exact hquiet (k + 1) (by omega) (by omega)
  have hline : LineBetween true (s.cfg.tWake + s.cfg.tRelease) (s.cfg.tWake + s.cfg.tRelease + s.cfg.tAck)
      (attemptStart s) := fun k hopen hclosed => by
    rw [upcoming_step hstep]
    exact hhigh (k + 1) (by omega) (by omega)
  refine ⟨fun n hn hpos => ?_, ?_⟩
  · obtain ⟨j, rfl⟩ := Nat.exists_eq_add_one.2 hpos
    obtain ⟨t, hrun, hstays⟩ := handshaking_before_window_closes (r := attemptStart s) hconf rfl rfl rfl rfl hn
      (hq.mono (by omega)) (hline.mono le_rfl (by omega))
    exact ⟨t, runsTo_succ.2 ⟨_, hstep, hrun⟩, hstays⟩
  · obtain ⟨t, hrun, hph, htmr, hbits, hf, herr, hhum, htemp, hoe, hout, -⟩ :=
      noResponse_when_window_closes (r := attemptStart s) hconf rfl rfl rfl hq hline
    exact ⟨t, runsTo_succ.2 ⟨_, hstep, hrun⟩, hph, herr, htmr, hbits, hf, hhum, htemp, hoe, hout⟩

end Sys2Proof.Machine
end

section
/-! PROOFS. Reset (R260) and a hazard of the line protocol: a pulse that rises during the delay after a bit (R273). -/

namespace Sys2Proof.Machine

/-! ### Reset (R260) -/

theorem exec_reset (start : Bool) (s : State) : exec (.reset start) s = .next (resetRegisters s) := rfl

/-- Settles O1: `RESET` writes every register, by which the core is idle, and a tick with `rst` = 1 executes it. -/
theorem resetWritesEveryRegister : Obligations.ResetWritesEveryRegister := by
  intro start s
  refine ⟨exec_reset start s, step_of_rst, fun t ht => ?_⟩
  obtain rfl : t = resetRegisters s := next_eq_next.1 ht
  exact ⟨rfl, rfl, rfl⟩

/-! ### A pulse lost in the delay (R273) -/

section
variable {m n : Nat} {s r : State} (h : RegistersAfter m s r) (hz : r.tmr = 0) (hconf : r.cfg.Conforming)
  (hp : r.ph = .smGap) (hbits : r.bitcnt.toNat < 40)
include h hz hconf hp hbits

/-- After a bit that is not the fortieth the delay leads to the wait for the next low run. -/
theorem RegistersAfter.smGap_loops (hq : QuietFor (m + r.cfg.tGap) s) :
    RegistersAfter (m + r.cfg.tGap) s (enterPhase .smWaitLow r) := by
  obtain ⟨-, -, -, -, -, -, -, hn, -, -⟩ := conforming_values hconf
  have hends := h.smGap_ends hz hconf hp hq
  rwa [if_neg (hn ▸ hbits.ne)] at hends

/-- A line that is high when such a delay ends is waited out, whatever it read during the delay: at its fall the
core waits for the next rise. -/
theorem RegistersAfter.smGap_skips_high (ho : r.lineOe = false) (hgap : m + r.cfg.tGap ≤ n)
    (hn : n < m + r.cfg.tGap + r.cfg.tTimeout) (hq : QuietFor (n + 1) s)
    (hhigh : LineBetween true (m + r.cfg.tGap) n s) (hfall : (upcoming s n).lineIn = false) :
    RegistersAfter (n + 1) s (enterPhase .smWaitHigh r) :=
  have hwait : WaitBegins false r.cfg.tTimeout .timeout (enterPhase .smWaitLow r) := ⟨hconf, rfl, ho, rfl⟩
  (h.smGap_loops hz hconf hp hbits (hq.mono (by omega))).wait_left hwait rfl hgap hn hq hhigh hfall

end

/-- Settles O26: the delay ends within the high run of the pulse, whose rise it has hidden. -/
theorem shortLowRunSwallowsAPulse : Obligations.ShortLowRunSwallowsAPulse := by
  intro s l w h hp hz hbits hl hshort hpast hbound hq hhigh hfall
  obtain ⟨j, rfl⟩ := Nat.exists_eq_add_one.2 hl
  rw [Nat.add_sub_cancel] at hhigh hfall
  have hbetween : LineBetween true (0 + s.cfg.tGap) (j + w) s := fun k hk => hhigh k (by omega)
  obtain ⟨ho, -⟩ := h.of_undriven (by rw [hp]; decide)
  have hskipped := (RegistersAfter.zero s).smGap_skips_high hz h.conforming hp hbits ho (n := j + w) (by omega)
    (by omega) (hq.mono (by omega)) hbetween hfall
  rwa [enterPhase_of_first hz, Nat.add_right_comm] at hskipped

end Sys2Proof.Machine
end
